-- ==== Sys2Proof/Word.lean ====
section
/-!
DEFINITION. The one word of the hardware: a byte. 00_scope.md R10 (byte width 8), R12 (a byte is an
unsigned integer 0 to 255); 20_memory.md R55: nothing wider exists.
-/
namespace Sys2Proof

/-- A byte (00_scope.md R12, R13). Comparisons of bytes are unsigned, on `toNat` (40_decoder_framing.md R126). -/
abbrev Byte := BitVec 8

end Sys2Proof
end

