-- ==== Sys2Proof/Config.lean ====
section
/-!
DEFINITION. What an implementation fixes (the default of the one parameter, 00_scope.md R9) and the
free values: the bytes the spec leaves unspecified (93_implementation_defined.md U1, U2, U12, U13).
A free value is a constant without a body, so no proof can see what it is.
-/
namespace Sys2Proof

/-- The default payload buffer capacity `CAP` (00_scope.md R9, 92_eei_decisions.md D1). The model carries the
capacity of an instance in its state, so statements hold for every legal capacity (log entry 1). -/
def Config.defaultCap : Nat := 64

/-- The smallest and the largest legal capacity (00_scope.md R9). -/
def Config.minCap : Nat := 1

/-- See `Config.minCap`. -/
def Config.maxCap : Nat := 255

/-- Where an unspecified value shows: each place draws its own free value. -/
inductive FreeSite where
  /-- The payload byte at an offset at or past the payload's length, as an event's argument and as the event
  port's `ev_type` (offset 0), `ev_arg0` (1) and `ev_arg1` (2) show it (41_event_dispatch.md R155, 10_state.md R37). -/
  | eventArg (offset : Nat)
  /-- `ev_payload[i]` at `i >= ev_len`, or while `ev_valid = 0` (10_state.md R37). -/
  | portPayload (i : Nat)
  /-- `ev_kind` while `ev_valid = 0` (10_state.md R37). -/
  | portKind
  /-- `ev_len` while `ev_valid = 0` (10_state.md R37). -/
  | portLen
  /-- `err_len` while `err_valid = 0` (93_implementation_defined.md U13). -/
  | errLen
deriving DecidableEq, Repr

/-- DESIGN CHOICE (log entry 6). The unspecified byte that the step with this draw number shows at this place:
"any value", drawn afresh at each step (93_implementation_defined.md U2, U13). -/
opaque Config.freeByte : Nat → FreeSite → Byte

/-- DESIGN CHOICE (log entry 5). What buffer byte `i` holds before any step has written it: "any value"
(93_implementation_defined.md U1, U12; 10_state.md R34). -/
opaque Config.bufUnwritten : Nat → Byte

end Sys2Proof
end

