-- ==== Sys2Proof/Syntax.lean ====
section
/-!
DEFINITION. The instructions: one constructor of `Instr` for each of the 40 rows of opcode_table.json, and the
names the two code tables are indexed by. 30_encoding.md R93 (the table's three groups), 10_state.md R21, R40, R41.
-/
namespace Sys2Proof

/-- The parse state `st` (10_state.md R21: three values, "a model should use a three-constructor type"). -/
inductive ParseState where
  /-- Hunting for the sync byte. -/
  | idle
  /-- The sync byte has been consumed; the next byte is the length. -/
  | awaitLength
  /-- The length has been accepted; payload bytes are awaited. -/
  | awaitPayload
deriving DecidableEq, Repr

/-- The nineteen commands by name (30_encoding.md R89), without their arguments. -/
inductive CommandName where
  | getVersion | setLed | scan | setTone | getEvent | init | eepromRead | eepromWrite | getOnOff | getCorrect
  | eepromReadByte | resetDevice | startAuto | stopAuto | allLeds | startOutput | stopOutput | allSensors
  | getSerialNumber
deriving DecidableEq, Repr

/-- The twelve typed event variants by name (30_encoding.md R86): those a type code selects. -/
inductive EventName where
  | membranePress | membraneRelease | switch | sensorChange | version | onOffSwitch | correctMembrane
  | correctSwitch | correctDone | connect | disconnect | serialNumber
deriving DecidableEq, Repr

/-- The instructions.

Commands carry the arguments the command list gives them (10_state.md R41).
Event variants carry the payload bytes after the type code, all of them, so that the payload's length is one more
than their number (30_encoding.md R80); the variant's named arguments are the first ones (R85).
Byte-steps carry the received byte where the row leaves it open (40_decoder_framing.md R111 to R117). -/
inductive Instr where
  -- commands, 42_command_encoder.md R171 to R189
  | getVersion
  | setLed (num state : Byte)
  | scan
  | setTone (freq dur vol : Byte)
  | getEvent
  | init
  | eepromRead
  | eepromWrite
  | getOnOff
  | getCorrect
  | eepromReadByte
  | resetDevice
  | startAuto
  | stopAuto
  | allLeds
  | startOutput
  | stopOutput
  | allSensors
  | getSerialNumber
  -- event variants, 41_event_dispatch.md R141 to R154
  | membranePress (args : List Byte)
  | membraneRelease (args : List Byte)
  | switch (args : List Byte)
  | sensorChange (args : List Byte)
  | version (args : List Byte)
  | onOffSwitch (args : List Byte)
  | correctMembrane (args : List Byte)
  | correctSwitch (args : List Byte)
  | correctDone (args : List Byte)
  | connect (args : List Byte)
  | disconnect (args : List Byte)
  | serialNumber (chars : List Byte)
  | unhandled (code : Byte) (args : List Byte)
  | empty
  -- byte-steps, 40_decoder_framing.md R111 to R117
  | idleSkip (b : Byte)
  | idleSync
  | lenAccept (b : Byte)
  | lenZero
  | lenOversize (b : Byte)
  | payStore (b : Byte)
  | payComplete (b : Byte)
deriving DecidableEq, Repr

/-- The three groups of the table (30_encoding.md R93). -/
inductive Family where
  | command | event | byteStep
deriving DecidableEq, Repr

/-- Which group an instruction's row is in. -/
def Instr.family : Instr → Family
  | .getVersion => .command
  | .setLed _ _ => .command
  | .scan => .command
  | .setTone _ _ _ => .command
  | .getEvent => .command
  | .init => .command
  | .eepromRead => .command
  | .eepromWrite => .command
  | .getOnOff => .command
  | .getCorrect => .command
  | .eepromReadByte => .command
  | .resetDevice => .command
  | .startAuto => .command
  | .stopAuto => .command
  | .allLeds => .command
  | .startOutput => .command
  | .stopOutput => .command
  | .allSensors => .command
  | .getSerialNumber => .command
  | .membranePress _ => .event
  | .membraneRelease _ => .event
  | .switch _ => .event
  | .sensorChange _ => .event
  | .version _ => .event
  | .onOffSwitch _ => .event
  | .correctMembrane _ => .event
  | .correctSwitch _ => .event
  | .correctDone _ => .event
  | .connect _ => .event
  | .disconnect _ => .event
  | .serialNumber _ => .event
  | .unhandled _ _ => .event
  | .empty => .event
  | .idleSkip _ => .byteStep
  | .idleSync => .byteStep
  | .lenAccept _ => .byteStep
  | .lenZero => .byteStep
  | .lenOversize _ => .byteStep
  | .payStore _ => .byteStep
  | .payComplete _ => .byteStep

end Sys2Proof
end

