-- ==== Sys2Proof/Machine/Codes.lean ====
section
/-!
DEFINITION. The two code tables of the codec, each held once (00_scope.md R10: "a model should hold the two tables
as configuration data"; 93_implementation_defined.md U19), the sync byte, and the searches the decoder does in them.
-/
namespace Sys2Proof

/-- The sync byte `SYNC = 0xFF` (00_scope.md R10, 30_encoding.md R81). -/
def sync : Byte := 0xFF#8

/-- The event type-code table (30_encoding.md R86). -/
def typeCode : EventName → Byte
  | .membranePress => 52#8
  | .membraneRelease => 53#8
  | .switch => 54#8
  | .sensorChange => 55#8
  | .version => 56#8
  | .onOffSwitch => 58#8
  | .correctMembrane => 62#8
  | .correctSwitch => 63#8
  | .correctDone => 64#8
  | .connect => 81#8
  | .disconnect => 82#8
  | .serialNumber => 83#8

/-- The length a well-formed device sends with a variant (30_encoding.md R86, "nominal LEN"; the shortest for
`SerialNumber`). The decoder does not check it (R93). -/
def nominalLen : EventName → Byte
  | .membranePress => 3#8
  | .membraneRelease => 3#8
  | .switch => 3#8
  | .sensorChange => 3#8
  | .version => 3#8
  | .onOffSwitch => 2#8
  | .correctMembrane => 3#8
  | .correctSwitch => 3#8
  | .correctDone => 1#8
  | .connect => 1#8
  | .disconnect => 1#8
  | .serialNumber => 1#8

/-- The typed variants in the table's order. -/
def eventNames : List EventName :=
  [.membranePress, .membraneRelease, .switch, .sensorChange, .version, .onOffSwitch, .correctMembrane,
    .correctSwitch, .correctDone, .connect, .disconnect, .serialNumber]

/-- The variant a type code selects, by equality over all eight bits (41_event_dispatch.md R157); none for the
codes of `Unhandled` (30_encoding.md R87). -/
def eventOfCode (t : Byte) : Option EventName :=
  eventNames.find? fun e => decide (typeCode e = t)

/-- The command opcode table (30_encoding.md R89). -/
def opcode : CommandName → Byte
  | .getVersion => 1#8
  | .setLed => 2#8
  | .scan => 3#8
  | .setTone => 4#8
  | .getEvent => 5#8
  | .init => 6#8
  | .eepromRead => 7#8
  | .eepromWrite => 8#8
  | .getOnOff => 9#8
  | .getCorrect => 10#8
  | .eepromReadByte => 11#8
  | .resetDevice => 12#8
  | .startAuto => 13#8
  | .stopAuto => 14#8
  | .allLeds => 15#8
  | .startOutput => 16#8
  | .stopOutput => 17#8
  | .allSensors => 18#8
  | .getSerialNumber => 40#8

/-- The number of arguments of a command, the `argCount` of 30_encoding.md R89 (92_eei_decisions.md D14). -/
def argCount : CommandName → Nat
  | .getVersion => 0
  | .setLed => 2
  | .scan => 0
  | .setTone => 3
  | .getEvent => 0
  | .init => 0
  | .eepromRead => 0
  | .eepromWrite => 0
  | .getOnOff => 0
  | .getCorrect => 0
  | .eepromReadByte => 0
  | .resetDevice => 0
  | .startAuto => 0
  | .stopAuto => 0
  | .allLeds => 0
  | .startOutput => 0
  | .stopOutput => 0
  | .allSensors => 0
  | .getSerialNumber => 0

/-- The commands in the table's order. -/
def commandNames : List CommandName :=
  [.getVersion, .setLed, .scan, .setTone, .getEvent, .init, .eepromRead, .eepromWrite, .getOnOff, .getCorrect,
    .eepromReadByte, .resetDevice, .startAuto, .stopAuto, .allLeds, .startOutput, .stopOutput, .allSensors,
    .getSerialNumber]

/-- The command an opcode names; none for the values of 30_encoding.md R91. -/
def commandOfOpcode (op : Byte) : Option CommandName :=
  commandNames.find? fun c => decide (opcode c = op)

/-- An event variant's instruction with the payload bytes after its type code. -/
def eventWithArgs : EventName → List Byte → Instr
  | .membranePress, args => .membranePress args
  | .membraneRelease, args => .membraneRelease args
  | .switch, args => .switch args
  | .sensorChange, args => .sensorChange args
  | .version, args => .version args
  | .onOffSwitch, args => .onOffSwitch args
  | .correctMembrane, args => .correctMembrane args
  | .correctSwitch, args => .correctSwitch args
  | .correctDone, args => .correctDone args
  | .connect, args => .connect args
  | .disconnect, args => .disconnect args
  | .serialNumber, args => .serialNumber args

/-- A command's instruction from the three argument bytes of the raw port: a command takes the first `argCount`
of them, and the others are ignored (42_command_encoder.md R192). -/
def commandWithArgs : CommandName → Byte → Byte → Byte → Instr
  | .getVersion, _, _, _ => .getVersion
  | .setLed, a0, a1, _ => .setLed a0 a1
  | .scan, _, _, _ => .scan
  | .setTone, a0, a1, a2 => .setTone a0 a1 a2
  | .getEvent, _, _, _ => .getEvent
  | .init, _, _, _ => .init
  | .eepromRead, _, _, _ => .eepromRead
  | .eepromWrite, _, _, _ => .eepromWrite
  | .getOnOff, _, _, _ => .getOnOff
  | .getCorrect, _, _, _ => .getCorrect
  | .eepromReadByte, _, _, _ => .eepromReadByte
  | .resetDevice, _, _, _ => .resetDevice
  | .startAuto, _, _, _ => .startAuto
  | .stopAuto, _, _, _ => .stopAuto
  | .allLeds, _, _, _ => .allLeds
  | .startOutput, _, _, _ => .startOutput
  | .stopOutput, _, _, _ => .stopOutput
  | .allSensors, _, _, _ => .allSensors
  | .getSerialNumber, _, _, _ => .getSerialNumber

end Sys2Proof
end

