-- ==== Sys2Proof/Machine/Flags.lean ====
section
/-!
DEFINITION. The conditions the decoder computes. The hardware has no flags (10_state.md R30); what stands in their
place is the five tests of 40_decoder_framing.md R126, all unsigned, none of which wraps.
-/
namespace Sys2Proof

/-- The 8-bit equality test with `0xFF` (40_decoder_framing.md R112, 30_encoding.md R81). -/
def isSync (b : Byte) : Bool := decide (b = sync)

/-- The zero test of the length byte (40_decoder_framing.md R114). -/
def isZeroLen (b : Byte) : Bool := decide (b = 0#8)

/-- The unsigned comparison of the length byte with the capacity: `b > CAP` (40_decoder_framing.md R115;
equality is no error). -/
def exceedsCap (cap : Nat) (b : Byte) : Bool := decide (cap < b.toNat)

/-- `received + 1 < expected`: more payload follows this byte (40_decoder_framing.md R116). -/
def moreToCome (expected received : Byte) : Bool := decide (received.toNat + 1 < expected.toNat)

/-- `received + 1 == expected`: this byte completes the payload (40_decoder_framing.md R117). -/
def completes (expected received : Byte) : Bool := decide (received.toNat + 1 = expected.toNat)

end Sys2Proof
end

