-- ==== Sys2Proof/WellFormed.lean ====
section
/-!
DEFINITION. Which instructions can be met on an instance of capacity `cap`: the conditions the rows of
40_decoder_framing.md R110 put on the byte, and those a frame puts on its payload (30_encoding.md R83, R87).
Byte-typed operands need no check (42_command_encoder.md R191).
-/
namespace Sys2Proof

/-- A payload of a type code and `args` has an accepted length on this instance (30_encoding.md R83). -/
def payloadFits (cap : Nat) (args : List Byte) : Bool :=
  decide (args.length + 1 ≤ cap)

/-- Well-formedness of an instruction on an instance of capacity `cap`. -/
def Instr.wellFormed (cap : Nat) : Instr → Bool
  | .getVersion => true
  | .setLed _ _ => true
  | .scan => true
  | .setTone _ _ _ => true
  | .getEvent => true
  | .init => true
  | .eepromRead => true
  | .eepromWrite => true
  | .getOnOff => true
  | .getCorrect => true
  | .eepromReadByte => true
  | .resetDevice => true
  | .startAuto => true
  | .stopAuto => true
  | .allLeds => true
  | .startOutput => true
  | .stopOutput => true
  | .allSensors => true
  | .getSerialNumber => true
  | .membranePress args => payloadFits cap args
  | .membraneRelease args => payloadFits cap args
  | .switch args => payloadFits cap args
  | .sensorChange args => payloadFits cap args
  | .version args => payloadFits cap args
  | .onOffSwitch args => payloadFits cap args
  | .correctMembrane args => payloadFits cap args
  | .correctSwitch args => payloadFits cap args
  | .correctDone args => payloadFits cap args
  | .connect args => payloadFits cap args
  | .disconnect args => payloadFits cap args
  | .serialNumber chars => payloadFits cap chars
  | .unhandled code args => payloadFits cap args && (eventOfCode code).isNone
  | .empty => true
  | .idleSkip b => decide (b ≠ sync)
  | .idleSync => true
  | .lenAccept b => decide (1 ≤ b.toNat) && decide (b.toNat ≤ cap)
  | .lenZero => true
  | .lenOversize b => decide (cap < b.toNat)
  | .payStore _ => true
  | .payComplete _ => true

end Sys2Proof
end

