-- ==== Sys2Proof/Decode.lean ====
section
/-!
DEFINITION. The decoder and, after it, the encoder, from the encoding rules 30_encoding.md R80 to R93. Bytes stand
for three kinds of instruction, and which kind is known from where they are, not from themselves (R66, R92, R93):
an outgoing frame, a whole incoming frame, or one received byte in a parse state.
-/
namespace Sys2Proof

/-- Where bytes are met, and what of the machine's state selects the instruction there. -/
inductive Source where
  /-- A whole outgoing frame (30_encoding.md R89). -/
  | command
  /-- A whole incoming frame, on an instance of capacity `cap` (30_encoding.md R83, R86). -/
  | frame (cap : Nat)
  /-- One received byte in a parse state (40_decoder_framing.md R110). -/
  | byte (cap : Nat) (st : ParseState) (expected received : Byte)
deriving DecidableEq, Repr

/-- Why bytes are no instruction. -/
inductive DecodeError where
  /-- The bytes end before the instruction does. -/
  | truncated
  /-- The first byte of a frame is not the sync byte (30_encoding.md R81, R88). -/
  | noSync
  /-- The opcode names no command (30_encoding.md R91). -/
  | unknownOpcode (op : Byte)
  /-- The length byte of an outgoing frame is not one more than the command's argument count (42_command_encoder.md R170). -/
  | wrongLength (len : Byte)
  /-- The length byte exceeds the capacity: the one rejected encoding on the receive side (30_encoding.md R88). -/
  | frameTooLarge (len : Byte)
  /-- No row of 40_decoder_framing.md R110 applies: `received + 1 > expected` in `AwaitPayload`. -/
  | cursorPastLength
deriving DecidableEq, Repr

/-! ## The three selections -/

/-- The byte-step a received byte performs: the table of 40_decoder_framing.md R110, which partitions all pairs of
a state and a byte but for the case it says cannot arise. -/
def selectByte (cap : Nat) (st : ParseState) (expected received b : Byte) : Option Instr :=
  match st with
  | .idle => if isSync b then some .idleSync else some (.idleSkip b)
  | .awaitLength =>
    if isZeroLen b then some .lenZero
    else if exceedsCap cap b then some (.lenOversize b)
    else some (.lenAccept b)
  | .awaitPayload =>
    if moreToCome expected received then some (.payStore b)
    else if completes expected received then some (.payComplete b)
    else none

/-- The event variant of a complete payload: by the type code alone, and `Empty` for no payload
(41_event_dispatch.md R140). Total. -/
def selectEvent : List Byte → Instr
  | [] => .empty
  | t :: args =>
    match eventOfCode t with
    | some e => eventWithArgs e args
    | none => .unhandled t args

/-- The command at the raw opcode port (42_command_encoder.md R192); none for an opcode outside the nineteen. -/
def selectCommand (op a0 a1 a2 : Byte) : Option Instr :=
  (commandOfOpcode op).map fun c => commandWithArgs c a0 a1 a2

/-! ## The decoder -/

/-- An outgoing frame: sync, `argCount + 1`, opcode, arguments (42_command_encoder.md R170). -/
def decodeCommand : List Byte → Except DecodeError (Instr × List Byte)
  | s :: len :: op :: rest =>
    if s ≠ sync then .error .noSync
    else
      match commandOfOpcode op with
      | none => .error (.unknownOpcode op)
      | some c =>
        if len.toNat ≠ argCount c + 1 then .error (.wrongLength len)
        else if rest.length < argCount c then .error .truncated
        else .ok (commandWithArgs c (rest.getD 0 0#8) (rest.getD 1 0#8) (rest.getD 2 0#8), rest.drop (argCount c))
  | _ => .error .truncated

/-- A whole incoming frame: its length is told by the second byte alone (30_encoding.md R82). -/
def decodeFrame (cap : Nat) : List Byte → Except DecodeError (Instr × List Byte)
  | s :: len :: rest =>
    if s ≠ sync then .error .noSync
    else if exceedsCap cap len then .error (.frameTooLarge len)
    else if rest.length < len.toNat then .error .truncated
    else .ok (selectEvent (rest.take len.toNat), rest.drop len.toNat)
  | _ => .error .truncated

/-- One received byte (40_decoder_framing.md R110). -/
def decodeByte (cap : Nat) (st : ParseState) (expected received : Byte) :
    List Byte → Except DecodeError (Instr × List Byte)
  | [] => .error .truncated
  | b :: rest =>
    match selectByte cap st expected received b with
    | some i => .ok (i, rest)
    | none => .error .cursorPastLength

/-- The decoder: total on any bytes, refusing by name. Answers the instruction and the bytes after it. -/
def decode : Source → List Byte → Except DecodeError (Instr × List Byte)
  | .command, bs => decodeCommand bs
  | .frame cap, bs => decodeFrame cap bs
  | .byte cap st expected received, bs => decodeByte cap st expected received bs

/-! ## The encoder -/

/-- The frame of a command with its arguments: `[0xFF, argCount + 1, opcode] ++ args` (42_command_encoder.md R170). -/
def commandFrame (c : CommandName) (args : List Byte) : List Byte :=
  [sync, BitVec.ofNat 8 (argCount c + 1), opcode c] ++ args

/-- The frame of a payload: sync, the payload's length, the payload (30_encoding.md R80). -/
def payloadFrame (payload : List Byte) : List Byte :=
  sync :: BitVec.ofNat 8 payload.length :: payload

/-- The bytes of an instruction: the frame of a command (R89), the frame of an event variant (R86), the byte of a
byte-step. -/
def encode : Instr → List Byte
  | .getVersion => commandFrame .getVersion []
  | .setLed num state => commandFrame .setLed [num, state]
  | .scan => commandFrame .scan []
  | .setTone freq dur vol => commandFrame .setTone [freq, dur, vol]
  | .getEvent => commandFrame .getEvent []
  | .init => commandFrame .init []
  | .eepromRead => commandFrame .eepromRead []
  | .eepromWrite => commandFrame .eepromWrite []
  | .getOnOff => commandFrame .getOnOff []
  | .getCorrect => commandFrame .getCorrect []
  | .eepromReadByte => commandFrame .eepromReadByte []
  | .resetDevice => commandFrame .resetDevice []
  | .startAuto => commandFrame .startAuto []
  | .stopAuto => commandFrame .stopAuto []
  | .allLeds => commandFrame .allLeds []
  | .startOutput => commandFrame .startOutput []
  | .stopOutput => commandFrame .stopOutput []
  | .allSensors => commandFrame .allSensors []
  | .getSerialNumber => commandFrame .getSerialNumber []
  | .membranePress args => payloadFrame (typeCode .membranePress :: args)
  | .membraneRelease args => payloadFrame (typeCode .membraneRelease :: args)
  | .switch args => payloadFrame (typeCode .switch :: args)
  | .sensorChange args => payloadFrame (typeCode .sensorChange :: args)
  | .version args => payloadFrame (typeCode .version :: args)
  | .onOffSwitch args => payloadFrame (typeCode .onOffSwitch :: args)
  | .correctMembrane args => payloadFrame (typeCode .correctMembrane :: args)
  | .correctSwitch args => payloadFrame (typeCode .correctSwitch :: args)
  | .correctDone args => payloadFrame (typeCode .correctDone :: args)
  | .connect args => payloadFrame (typeCode .connect :: args)
  | .disconnect args => payloadFrame (typeCode .disconnect :: args)
  | .serialNumber chars => payloadFrame (typeCode .serialNumber :: chars)
  | .unhandled code args => payloadFrame (code :: args)
  | .empty => payloadFrame []
  | .idleSkip b => [b]
  | .idleSync => [sync]
  | .lenAccept b => [b]
  | .lenZero => [0#8]
  | .lenOversize b => [b]
  | .payStore b => [b]
  | .payComplete b => [b]

/-! ## Reading a row of the table -/

/-- The bytes of a table word, first byte in the highest bits (30_encoding.md R93: "with the SYNC byte in bits
23:16, LEN in bits 15:8 and OPCODE in bits 7:0"; log entry 7). -/
def tableBytes (nbytes w : Nat) : List Byte :=
  (List.range nbytes).map fun k => BitVec.ofNat 8 (w / 256 ^ (nbytes - 1 - k))

/-- A three-byte table word holds a type byte, so its `LEN` cannot be 0; the masks of the event rows leave `LEN`
open (30_encoding.md R93), and where it is left 0 the word stands for the row's nominal length (log entry 7). -/
def closeOpenLength : List Byte → List Byte
  | [s, len, t] =>
    if isZeroLen len then
      [s, match eventOfCode t with
        | some e => nominalLen e
        | none => 1#8, t]
    else [s, len, t]
  | bs => bs

/-- A lone byte of a table word: the two 8-bit rows with a pattern are `LEN-ZERO` (0x00) and `IDLE-SYNC` (0xFF);
any other byte is what the state after reset makes of it, `IDLE-SKIP` (log entry 7). -/
def tableByte (b : Byte) : Instr :=
  if isZeroLen b then .lenZero else if isSync b then .idleSync else .idleSkip b

/-- The instruction of a table word of `nbits` bits. A frame is read as a command where it is one and as an
incoming frame otherwise (the two code spaces do not overlap, 30_encoding.md R92).
DESIGN CHOICE (log entry 7). R93 limits the event rows to a `LEN` of at most `CAP`, and a table word names no `CAP`:
every word is read at the default capacity. -/
def decodeTableWord (nbits w : Nat) : Option Instr :=
  match tableBytes (nbits / 8) w with
  | [b] => some (tableByte b)
  | bs =>
    match decode .command (bs ++ List.replicate 3 0#8) with
    | .ok (i, _) => some i
    | .error _ =>
      match decode (.frame Config.defaultCap) (closeOpenLength bs ++ List.replicate 255 0#8) with
      | .ok (i, _) => some i
      | .error _ => none

end Sys2Proof
end

