-- ==== Sys2Proof/Machine/State.lean ====
section
/-!
DEFINITION. The machine's state as plain data, the events, errors and outputs it speaks of, the reasons it can stop,
and the state after reset. 10_state.md R20 to R44; INVENTORY.md lists every field with its rule and reset value.
-/
namespace Sys2Proof.Machine

/-- The payload buffer as a sparse list of (index, byte), indices strictly rising (`Memory.wf`). An index that is
not listed has been written by no step and has no known value (10_state.md R34, 93_implementation_defined.md U12). -/
abbrev Memory := List Host.Cell

/-- Every listed index is above `a`, rising. -/
def Memory.risingFrom (a : Nat) : Memory → Bool
  | [] => true
  | (k, _) :: rest => decide (a < k) && Memory.risingFrom k rest

/-- The canonical form of the buffer: indices strictly rising. -/
def Memory.wf : Memory → Bool
  | [] => true
  | (k, _) :: rest => Memory.risingFrom k rest

/-- Every listed index is an index of a buffer of `cap` bytes (20_memory.md R50). -/
def Memory.within (cap : Nat) : Memory → Bool
  | [] => true
  | (k, _) :: rest => decide (k < cap) && Memory.within cap rest

/-- The DecoderState, the complete architectural state of the block (10_state.md R20). -/
structure DecoderState where
  /-- The parse state (10_state.md R21). -/
  st : ParseState
  /-- The target length (10_state.md R22). -/
  expected : Byte
  /-- The cursor: the count of payload bytes stored (10_state.md R23). -/
  received : Byte
  /-- The payload buffer (10_state.md R24). -/
  buf : Memory
deriving DecidableEq, Repr

/-- The DecoderState after reset (10_state.md R34, 70_reset_and_hazards.md R230): every buffer byte unspecified. -/
def DecoderState.reset : DecoderState :=
  { st := .idle, expected := 0#8, received := 0#8, buf := [] }

/-- A decoded event (10_state.md R40). -/
inductive Event where
  | membranePress (x y : Byte)
  | membraneRelease (x y : Byte)
  | switch (num state : Byte)
  | sensorChange (num state : Byte)
  | version (major minor : Byte)
  | onOffSwitch (state : Byte)
  | correctMembrane (x y : Byte)
  | correctSwitch (x y : Byte)
  | correctDone
  | connect
  | disconnect
  /-- The character codes of the string (41_event_dispatch.md R152). -/
  | serialNumber (s : List Byte)
  /-- The raw type code and the whole payload (41_event_dispatch.md R153). -/
  | unhandled (code : Byte) (raw : List Byte)
  /-- The event of a zero length byte (41_event_dispatch.md R154). -/
  | empty
deriving DecidableEq, Repr

/-- The codec's error taxonomy: one error (60_exceptions.md R200). -/
inductive CodecError where
  /-- A length byte above the capacity (60_exceptions.md R201). -/
  | frameTooLarge
deriving DecidableEq, Repr

/-- The output of a step: exactly one of these (10_state.md R42). -/
inductive Out where
  | none
  /-- An event with the frame's payload length. -/
  | ev (e : Event) (len : Nat)
  /-- An error with the offending length byte. -/
  | err (e : CodecError) (len : Byte)
deriving DecidableEq, Repr

/-- The encoder's output port (10_state.md R39): `enc_ok`, `tx_len`, `tx_byte[0..5]`. -/
structure EncoderPort where
  ok : Bool
  len : BitVec 3
  b0 : Byte
  b1 : Byte
  b2 : Byte
  b3 : Byte
  b4 : Byte
  b5 : Byte
deriving DecidableEq, Repr

/-- The port with nothing to send: `enc_ok = 0`, `tx_len = 0`, every `tx_byte` 0 (10_state.md R39). -/
def EncoderPort.nothing : EncoderPort :=
  { ok := false, len := 0#3, b0 := 0#8, b1 := 0#8, b2 := 0#8, b3 := 0#8, b4 := 0#8, b5 := 0#8 }

/-- What the environment can present to the block in one step. -/
inductive Input where
  /-- A received byte: `rx_valid = 1`, `rx_data = b` (10_state.md R36). -/
  | rx (b : Byte)
  /-- A command at the encoder's input port: `cmd_op`, `cmd_arg0`, `cmd_arg1`, `cmd_arg2` (10_state.md R39). -/
  | cmd (op a0 a1 a2 : Byte)
  /-- Reset, which only the environment applies (60_exceptions.md R210, 70_reset_and_hazards.md R230). -/
  | reset
deriving DecidableEq, Repr

/-- The state of one instance of the codec with its ports and its environment's schedule. -/
structure State where
  /-- The build-time parameter `CAP` (00_scope.md R9); no step writes it. Log entry 1. -/
  cap : Nat
  /-- The decoder's architectural state (10_state.md R20). -/
  dec : DecoderState
  /-- The output of the step just taken; no rule reads it (10_state.md R30, R42). Log entry 2. -/
  out : Out
  /-- The encoder's output port for the command last presented (10_state.md R39). Log entry 4. -/
  enc : EncoderPort
  /-- The transmit stream: the frames handed to the byte sink, in order; never read (10_state.md R44). Log entry 4. -/
  tx : List Byte
  /-- What the environment will present, oldest first; the received bytes among them are the receive stream
  (10_state.md R36, R44). The model's own. Log entry 3. -/
  inputs : List Input
  /-- The number of the step, which selects its free values. The model's own. Log entry 6. -/
  draws : Nat
deriving DecidableEq, Repr

/-- An instance of capacity `cap` right after reset, with nothing presented. -/
def State.resetWith (cap : Nat) : State :=
  { cap := cap, dec := DecoderState.reset, out := .none, enc := EncoderPort.nothing, tx := [], inputs := [], draws := 0 }

/-- The machine right after reset, at the default capacity (00_scope.md R9, 10_state.md R34). -/
def State.reset : State := State.resetWith Config.defaultCap

/-- Why the machine stops. Neither can happen in a state that a run from reset reaches (log entry 8). -/
inductive Fault where
  /-- Raised by a step on a byte in `AwaitPayload` with `received + 1 > expected`, for which
  40_decoder_framing.md R110 gives no row: "cannot arise". Safe. -/
  | cursorPastLength
  /-- Raised by a payload byte's store at an index of `CAP` or more, which does not exist (20_memory.md R50, R52).
  Safe. -/
  | bufferBound
deriving DecidableEq, Repr

/-- Why an instruction has no meaning here. -/
inductive Refusal where
  /-- Raised by an arm of `exec` whose instruction has no meaning yet. Safe. No arm does. -/
  | notModelled (mnemonic : String)
deriving DecidableEq, Repr

/-- What an instruction answers. -/
abbrev Result := Host.Outcome State Fault Refusal

end Sys2Proof.Machine
end

