-- ==== Sys2Proof/Machine/Ops.lean ====
section
/-!
DEFINITION. The named operations over the buffer, the decoder's registers, the outputs and the encoder's port, which
every meaning is written over; raising the codec's one error, once; reset.
-/
namespace Sys2Proof.Machine

/-! ## The payload buffer (20_memory.md R50 to R54, R69) -/

/-- What is known of one buffer byte: none where no step has written it. -/
def Memory.read : Memory → Nat → Option Byte
  | [], _ => none
  | (k, v) :: rest, a => if k = a then some v else Memory.read rest a

/-- Write one buffer byte, keeping the indices strictly rising. -/
def Memory.write : Memory → Nat → Byte → Memory
  | [], a, v => [(a, v)]
  | (k, w) :: rest, a, v =>
    if a < k then (a, v) :: (k, w) :: rest
    else if a = k then (a, v) :: rest
    else (k, w) :: Memory.write rest a v

/-- The byte buffer index `i` holds: the last one written there, or the unspecified byte it has held since reset
(20_memory.md R63, 93_implementation_defined.md U1). -/
def DecoderState.bufByte (d : DecoderState) (i : Nat) : Byte :=
  (d.buf.read i).getD (Config.bufUnwritten i)

/-- The payload of length `n`: `buf[0 .. n)` (41_event_dispatch.md R140, R153). -/
def DecoderState.payload (d : DecoderState) (n : Nat) : List Byte :=
  (List.range n).map d.bufByte

/-! ## The decoder's registers (10_state.md R21 to R23) -/

/-- `st <- p`. -/
def State.enter (p : ParseState) (s : State) : State :=
  { s with dec := { s.dec with st := p } }

/-- `expected <- b ; received <- 0`: a length byte is accepted (40_decoder_framing.md R113, R114). -/
def State.loadLength (b : Byte) (s : State) : State :=
  { s with dec := { s.dec with expected := b, received := 0#8 } }

/-- `buf[received] <- b ; received <- received + 1` (40_decoder_framing.md R116, R117, R128). -/
def State.pushByte (b : Byte) (s : State) : State :=
  { s with dec := { s.dec with buf := s.dec.buf.write s.dec.received.toNat b, received := s.dec.received + 1#8 } }

/-- The store of a payload byte. An index of `CAP` or more does not exist (20_memory.md R50), and no reachable state
asks for one (R52). -/
def storePayloadByte (b : Byte) (s : State) : Result :=
  if s.dec.received.toNat < s.cap then .next (s.pushByte b) else .fault .bufferBound

/-! ## Outputs (10_state.md R42) -/

/-- The step's output is `o`. -/
def State.emit (o : Out) (s : State) : State := { s with out := o }

/-- The non-`None` outputs of a step: at most one (40_decoder_framing.md R118, R121). -/
def Out.toList : Out → List Out
  | .none => []
  | .ev e n => [.ev e n]
  | .err e b => [.err e b]

/-! ## The error (60_exceptions.md R201, R205, R206) -/

/-- Raising `FrameTooLarge(b)`, the whole of the codec's error entry (60_exceptions.md R205): the error is output
and `st <- Idle`; `expected`, `received` and `buf` keep their values; nothing is saved, masked or left pending. There
is no return from it: the decoder is already back in `Idle` (R206). -/
def raiseFrameTooLarge (b : Byte) (s : State) : State :=
  (s.enter .idle).emit (.err .frameTooLarge b)

/-! ## The encoder's port and the transmit stream (10_state.md R39, R44; 20_memory.md R67) -/

/-- The port showing a frame: `tx_byte[i]` past the frame is 0 (10_state.md R39). -/
def EncoderPort.ofFrame (frame : List Byte) : EncoderPort :=
  { ok := true, len := BitVec.ofNat 3 frame.length, b0 := frame.getD 0 0#8, b1 := frame.getD 1 0#8,
    b2 := frame.getD 2 0#8, b3 := frame.getD 3 0#8, b4 := frame.getD 4 0#8, b5 := frame.getD 5 0#8 }

/-- The encoder presents a frame and it goes onto the transmit stream whole, first byte first
(20_memory.md R67). The decoder is untouched (R68). -/
def State.presentFrame (frame : List Byte) (s : State) : State :=
  { s with enc := EncoderPort.ofFrame frame, tx := s.tx ++ frame }

/-- The port refuses an opcode outside the nineteen: `enc_ok = 0` and no bytes (42_command_encoder.md R192, R216). -/
def State.refuseOpcode (s : State) : State := { s with enc := EncoderPort.nothing }

/-- The raw opcode port as a function (42_command_encoder.md R192). -/
def encodeRaw (op a0 a1 a2 : Byte) : EncoderPort :=
  match selectCommand op a0 a1 a2 with
  | some i => EncoderPort.ofFrame (encode i)
  | none => EncoderPort.nothing

/-! ## Steps and reset -/

/-- What every step does around the instruction it runs: the input is consumed (20_memory.md R59), the last step's
output is gone (41_event_dispatch.md R159), and the step has free values of its own. -/
def State.advance (rest : List Input) (s : State) : State :=
  { s with inputs := rest, out := .none, draws := s.draws + 1 }

/-- Reset (70_reset_and_hazards.md R230): the same from every state, a partial frame discarded without output (R231);
every buffer byte unspecified again; the encoder is not affected (R230). -/
def State.applyReset (s : State) : State :=
  { s with dec := DecoderState.reset, out := .none }

/-- Continue a result that is a next state. -/
def onNext (r : Result) (f : State → Result) : Result :=
  match r with
  | .next s => f s
  | .fault e => .fault e
  | .refused e => .refused e

end Sys2Proof.Machine
end

