-- ==== Sys2Proof/Machine/Commands.lean ====
section
/-!
DEFINITION. The nineteen commands: the Command Encoder (42_command_encoder.md R170 to R189). Each presents its frame
at the encoder's port and on the transmit stream, and writes nothing else: no register, no buffer byte (R190). None
can fail (R216).
-/
namespace Sys2Proof.Machine

/-- `GetVersion` (R171): the frame `FF 01 01`. -/
def execGetVersion (s : State) : Result :=
  .next (s.presentFrame (commandFrame .getVersion []))

/-- `SetLed` (R172): the frame `FF 03 02 num state`. The arguments are sent as they are, not validated. -/
def execSetLed (num state : Byte) (s : State) : Result :=
  .next (s.presentFrame (commandFrame .setLed [num, state]))

/-- `Scan` (R173): the frame `FF 01 03`. -/
def execScan (s : State) : Result :=
  .next (s.presentFrame (commandFrame .scan []))

/-- `SetTone` (R174): the frame `FF 04 04 freq dur vol`. The arguments are sent as they are, not validated; the longest frame. -/
def execSetTone (freq dur vol : Byte) (s : State) : Result :=
  .next (s.presentFrame (commandFrame .setTone [freq, dur, vol]))

/-- `GetEvent` (R175): the frame `FF 01 05`. -/
def execGetEvent (s : State) : Result :=
  .next (s.presentFrame (commandFrame .getEvent []))

/-- `Init` (R176): the frame `FF 01 06`. It asks the device to initialise; this block's decoder is not reset. -/
def execInit (s : State) : Result :=
  .next (s.presentFrame (commandFrame .init []))

/-- `EepromRead` (R177): the frame `FF 01 07`. No address or length argument is defined (92_eei_decisions.md D14). -/
def execEepromRead (s : State) : Result :=
  .next (s.presentFrame (commandFrame .eepromRead []))

/-- `EepromWrite` (R178): the frame `FF 01 08`. No address or data argument is defined (92_eei_decisions.md D14). -/
def execEepromWrite (s : State) : Result :=
  .next (s.presentFrame (commandFrame .eepromWrite []))

/-- `GetOnOff` (R179): the frame `FF 01 09`. -/
def execGetOnOff (s : State) : Result :=
  .next (s.presentFrame (commandFrame .getOnOff []))

/-- `GetCorrect` (R180): the frame `FF 01 0A`. -/
def execGetCorrect (s : State) : Result :=
  .next (s.presentFrame (commandFrame .getCorrect []))

/-- `EepromReadByte` (R181): the frame `FF 01 0B`. No argument is defined (92_eei_decisions.md D14). -/
def execEepromReadByte (s : State) : Result :=
  .next (s.presentFrame (commandFrame .eepromReadByte []))

/-- `ResetDevice` (R182): the frame `FF 01 0C`. It is addressed to the device; this block is not reset (70_reset_and_hazards.md R230). -/
def execResetDevice (s : State) : Result :=
  .next (s.presentFrame (commandFrame .resetDevice []))

/-- `StartAuto` (R183): the frame `FF 01 0D`. -/
def execStartAuto (s : State) : Result :=
  .next (s.presentFrame (commandFrame .startAuto []))

/-- `StopAuto` (R184): the frame `FF 01 0E`. -/
def execStopAuto (s : State) : Result :=
  .next (s.presentFrame (commandFrame .stopAuto []))

/-- `AllLeds` (R185): the frame `FF 01 0F`. -/
def execAllLeds (s : State) : Result :=
  .next (s.presentFrame (commandFrame .allLeds []))

/-- `StartOutput` (R186): the frame `FF 01 10`. -/
def execStartOutput (s : State) : Result :=
  .next (s.presentFrame (commandFrame .startOutput []))

/-- `StopOutput` (R187): the frame `FF 01 11`. -/
def execStopOutput (s : State) : Result :=
  .next (s.presentFrame (commandFrame .stopOutput []))

/-- `AllSensors` (R188): the frame `FF 01 12`. -/
def execAllSensors (s : State) : Result :=
  .next (s.presentFrame (commandFrame .allSensors []))

/-- `GetSerialNumber` (R189): the frame `FF 01 28`. The one opcode outside the run 1 to 18. -/
def execGetSerialNumber (s : State) : Result :=
  .next (s.presentFrame (commandFrame .getSerialNumber []))

end Sys2Proof.Machine
end

