-- ==== Sys2Proof/Machine/Operands.lean ====
section
/-!
DEFINITION. The operand forms of the event variants: a byte at a fixed offset of the payload, the whole string, the
whole payload (30_encoding.md R85, 40_decoder_framing.md R128).
-/
namespace Sys2Proof.Machine

/-- The payload length of a type code followed by `args` (30_encoding.md R80). -/
def payloadLength (args : List Byte) : Nat := args.length + 1

/-- The argument at payload offset `offset` of a typed variant: the byte there, unsigned and as it is
(30_encoding.md R85), or a free value of this step where the payload is too short (41_event_dispatch.md R155).
`args` are the payload bytes from offset 1 on. -/
def eventArg (s : State) (args : List Byte) (offset : Nat) : Byte :=
  (args[offset - 1]?).getD (Config.freeByte s.draws (.eventArg offset))

/-- The first argument named in the event table, `payload[1]` (30_encoding.md R85). -/
def firstArg (s : State) (args : List Byte) : Byte := eventArg s args 1

/-- The second argument named in the event table, `payload[2]` (30_encoding.md R85). -/
def secondArg (s : State) (args : List Byte) : Byte := eventArg s args 2

end Sys2Proof.Machine
end

