-- ==== Sys2Proof/Machine/Events.lean ====
section
/-!
DEFINITION. The fourteen event variants: the event decoder (41_event_dispatch.md R140 to R154). Each emits its event
with the payload's length and writes nothing else: not `st`, not `received`, not `buf` (R140, R160). None can fail.
A payload longer than the variant needs is ignored past its arguments (R156); of a shorter one the missing arguments
are free values (R155).
-/
namespace Sys2Proof.Machine

/-- `MembranePress` (R141): `x = payload[1]`, `y = payload[2]`. -/
def execMembranePress (args : List Byte) (s : State) : Result :=
  .next (s.emit (.ev (.membranePress (firstArg s args) (secondArg s args)) (payloadLength args)))

/-- `MembraneRelease` (R142): `x = payload[1]`, `y = payload[2]`. -/
def execMembraneRelease (args : List Byte) (s : State) : Result :=
  .next (s.emit (.ev (.membraneRelease (firstArg s args) (secondArg s args)) (payloadLength args)))

/-- `Switch` (R143): `num = payload[1]`, `state = payload[2]`. -/
def execSwitch (args : List Byte) (s : State) : Result :=
  .next (s.emit (.ev (.switch (firstArg s args) (secondArg s args)) (payloadLength args)))

/-- `SensorChange` (R144): `num = payload[1]`, `state = payload[2]`. -/
def execSensorChange (args : List Byte) (s : State) : Result :=
  .next (s.emit (.ev (.sensorChange (firstArg s args) (secondArg s args)) (payloadLength args)))

/-- `Version` (R145): `major = payload[1]`, `minor = payload[2]`. -/
def execVersion (args : List Byte) (s : State) : Result :=
  .next (s.emit (.ev (.version (firstArg s args) (secondArg s args)) (payloadLength args)))

/-- `OnOffSwitch` (R146): `state = payload[1]`. -/
def execOnOffSwitch (args : List Byte) (s : State) : Result :=
  .next (s.emit (.ev (.onOffSwitch (firstArg s args)) (payloadLength args)))

/-- `CorrectMembrane` (R147): `x = payload[1]`, `y = payload[2]`. -/
def execCorrectMembrane (args : List Byte) (s : State) : Result :=
  .next (s.emit (.ev (.correctMembrane (firstArg s args) (secondArg s args)) (payloadLength args)))

/-- `CorrectSwitch` (R148): `x = payload[1]`, `y = payload[2]`. -/
def execCorrectSwitch (args : List Byte) (s : State) : Result :=
  .next (s.emit (.ev (.correctSwitch (firstArg s args) (secondArg s args)) (payloadLength args)))

/-- `CorrectDone` (R149): no arguments. -/
def execCorrectDone (args : List Byte) (s : State) : Result :=
  .next (s.emit (.ev .correctDone (payloadLength args)))

/-- `Connect` (R150): no arguments. A notification like any other: the decoder has no connected flag (R160). -/
def execConnect (args : List Byte) (s : State) : Result :=
  .next (s.emit (.ev .connect (payloadLength args)))

/-- `Disconnect` (R151): no arguments. The decoder goes on as before (R160). -/
def execDisconnect (args : List Byte) (s : State) : Result :=
  .next (s.emit (.ev .disconnect (payloadLength args)))

/-- `SerialNumber` (R152): the string is the payload bytes from offset 1 on, in order, nothing dropped, replaced or
terminated. -/
def execSerialNumber (chars : List Byte) (s : State) : Result :=
  .next (s.emit (.ev (.serialNumber chars) (payloadLength chars)))

/-- `Unhandled` (R153): the type code and the whole payload, of which the code is the first byte. -/
def execUnhandled (code : Byte) (args : List Byte) (s : State) : Result :=
  .next (s.emit (.ev (.unhandled code (code :: args)) (payloadLength args)))

/-- `Empty` (R154): the event of a zero length byte, with length 0. -/
def execEmpty (s : State) : Result :=
  .next (s.emit (.ev .empty 0))

/-- The typed variant of a name, run. -/
def runTypedEvent (e : EventName) (args : List Byte) (s : State) : Result :=
  match e with
  | .membranePress => execMembranePress args s
  | .membraneRelease => execMembraneRelease args s
  | .switch => execSwitch args s
  | .sensorChange => execSensorChange args s
  | .version => execVersion args s
  | .onOffSwitch => execOnOffSwitch args s
  | .correctMembrane => execCorrectMembrane args s
  | .correctSwitch => execCorrectSwitch args s
  | .correctDone => execCorrectDone args s
  | .connect => execConnect args s
  | .disconnect => execDisconnect args s
  | .serialNumber => execSerialNumber args s

/-- The hand-over of a complete payload to the event decoder (R140): the variant is chosen by the type code alone, and
`Empty` before any look at the buffer when there is no payload. Total, and never an error. -/
def dispatchEvent (payload : List Byte) (s : State) : Result :=
  match payload with
  | [] => execEmpty s
  | t :: args =>
    match eventOfCode t with
    | some e => runTypedEvent e args s
    | none => execUnhandled t args s

end Sys2Proof.Machine
end

