-- ==== Sys2Proof/Machine/Framing.lean ====
section
/-!
DEFINITION. The seven byte-steps of the Frame Decoder (40_decoder_framing.md R111 to R117). Which one a byte performs
is `selectByte` (R110); each meaning is the rule's pseudocode, with exactly one output.
-/
namespace Sys2Proof.Machine

/-- `IDLE-SKIP` (R111): the byte is discarded; nothing is written. -/
def execIdleSkip (_b : Byte) (s : State) : Result :=
  .next ((s.enter .idle).emit .none)

/-- `IDLE-SYNC` (R112): the sync byte is consumed and not stored. -/
def execIdleSync (s : State) : Result :=
  .next ((s.enter .awaitLength).emit .none)

/-- `LEN-ACCEPT` (R113). -/
def execLenAccept (b : Byte) (s : State) : Result :=
  .next (((s.loadLength b).enter .awaitPayload).emit .none)

/-- `LEN-ZERO` (R114): completes at once with an empty payload. -/
def execLenZero (s : State) : Result :=
  dispatchEvent [] ((s.loadLength 0#8).enter .idle)

/-- `LEN-OVERSIZE` (R115): raises the error; the length byte is consumed and not examined again. -/
def execLenOversize (b : Byte) (s : State) : Result :=
  .next (raiseFrameTooLarge b s)

/-- `PAY-STORE` (R116): the byte's value plays no part. -/
def execPayStore (b : Byte) (s : State) : Result :=
  onNext (storePayloadByte b s) fun t => .next ((t.enter .awaitPayload).emit .none)

/-- `PAY-COMPLETE` (R117): the byte is stored, and the payload of length `expected`, this byte included, is handed to
the event decoder in the same step. Only `st` is reset. -/
def execPayComplete (b : Byte) (s : State) : Result :=
  onNext (storePayloadByte b s) fun t => dispatchEvent (t.dec.payload t.dec.expected.toNat) (t.enter .idle)

end Sys2Proof.Machine
end

