-- ==== Sys2Proof/Machine/Dispatch.lean ====
section
/-! DEFINITION. One arm per instruction, each a direct call of its meaning. -/
namespace Sys2Proof.Machine

open Sys2Proof

def exec (i : Instr) (s : State) : Host.Outcome State Fault Refusal :=
  match i with
  | .getVersion => Sys2Proof.Machine.execGetVersion s
  | .setLed num state => Sys2Proof.Machine.execSetLed num state s
  | .scan => Sys2Proof.Machine.execScan s
  | .setTone freq dur vol => Sys2Proof.Machine.execSetTone freq dur vol s
  | .getEvent => Sys2Proof.Machine.execGetEvent s
  | .init => Sys2Proof.Machine.execInit s
  | .eepromRead => Sys2Proof.Machine.execEepromRead s
  | .eepromWrite => Sys2Proof.Machine.execEepromWrite s
  | .getOnOff => Sys2Proof.Machine.execGetOnOff s
  | .getCorrect => Sys2Proof.Machine.execGetCorrect s
  | .eepromReadByte => Sys2Proof.Machine.execEepromReadByte s
  | .resetDevice => Sys2Proof.Machine.execResetDevice s
  | .startAuto => Sys2Proof.Machine.execStartAuto s
  | .stopAuto => Sys2Proof.Machine.execStopAuto s
  | .allLeds => Sys2Proof.Machine.execAllLeds s
  | .startOutput => Sys2Proof.Machine.execStartOutput s
  | .stopOutput => Sys2Proof.Machine.execStopOutput s
  | .allSensors => Sys2Proof.Machine.execAllSensors s
  | .getSerialNumber => Sys2Proof.Machine.execGetSerialNumber s
  | .membranePress args => Sys2Proof.Machine.execMembranePress args s
  | .membraneRelease args => Sys2Proof.Machine.execMembraneRelease args s
  | .switch args => Sys2Proof.Machine.execSwitch args s
  | .sensorChange args => Sys2Proof.Machine.execSensorChange args s
  | .version args => Sys2Proof.Machine.execVersion args s
  | .onOffSwitch args => Sys2Proof.Machine.execOnOffSwitch args s
  | .correctMembrane args => Sys2Proof.Machine.execCorrectMembrane args s
  | .correctSwitch args => Sys2Proof.Machine.execCorrectSwitch args s
  | .correctDone args => Sys2Proof.Machine.execCorrectDone args s
  | .connect args => Sys2Proof.Machine.execConnect args s
  | .disconnect args => Sys2Proof.Machine.execDisconnect args s
  | .serialNumber chars => Sys2Proof.Machine.execSerialNumber chars s
  | .unhandled code args => Sys2Proof.Machine.execUnhandled code args s
  | .empty => Sys2Proof.Machine.execEmpty s
  | .idleSkip b => Sys2Proof.Machine.execIdleSkip b s
  | .idleSync => Sys2Proof.Machine.execIdleSync s
  | .lenAccept b => Sys2Proof.Machine.execLenAccept b s
  | .lenZero => Sys2Proof.Machine.execLenZero s
  | .lenOversize b => Sys2Proof.Machine.execLenOversize b s
  | .payStore b => Sys2Proof.Machine.execPayStore b s
  | .payComplete b => Sys2Proof.Machine.execPayComplete b s

end Sys2Proof.Machine
end

