-- ==== Sys2Proof/Machine/Fetch.lean ====
section
/-!
DEFINITION. What a step runs, and how one instruction is placed so that the very next step runs it. The block has no
fetch (10_state.md R29): its instructions come from the ports (R36, R39).
-/
namespace Sys2Proof.Machine

/-- A step on a received byte: the byte-step of 40_decoder_framing.md R110. -/
def runByte (b : Byte) (s : State) : Result :=
  match selectByte s.cap s.dec.st s.dec.expected s.dec.received b with
  | some i => exec i s
  | none => .fault .cursorPastLength

/-- A step on a command at the raw opcode port (42_command_encoder.md R192): an opcode outside the nineteen is
refused at the port and sends nothing. -/
def runCommand (op a0 a1 a2 : Byte) (s : State) : Result :=
  match selectCommand op a0 a1 a2 with
  | some i => exec i s
  | none => .next s.refuseOpcode

/-- Store payload bytes one after another from the cursor on. -/
def State.pushBytes (bs : List Byte) (s : State) : State :=
  bs.foldl (fun t b => t.pushByte b) s

/-- The environment presents `i` next. -/
def State.present (i : Input) (s : State) : State := { s with inputs := i :: s.inputs }

/-- A frame with this payload is in progress and lacks its last byte, which is presented next: the step that takes it
is the step that runs the payload's event variant (40_decoder_framing.md R117). An empty payload is a zero length
byte (R114). -/
def State.withPayload (payload : List Byte) (s : State) : State :=
  match payload.getLast? with
  | none => (s.enter .awaitLength).present (.rx 0#8)
  | some last =>
    (((s.loadLength (BitVec.ofNat 8 payload.length)).pushBytes payload.dropLast).enter .awaitPayload).present (.rx last)

/-- `b` is received next, in the parse state `st`. -/
def State.withByte (st : ParseState) (b : Byte) (s : State) : State := (s.enter st).present (.rx b)

/-- A command of this opcode is presented next with the arguments that follow it in its frame. -/
def State.withFrame (frame : List Byte) (s : State) : State :=
  s.present (.cmd (frame.getD 2 0#8) (frame.getD 3 0#8) (frame.getD 4 0#8) (frame.getD 5 0#8))

/-- A byte-step is placed by entering a parse state whose next byte performs it (40_decoder_framing.md R110). -/
def State.placingByteStep (i : Instr) (s : State) : State :=
  match encode i, i with
  | b :: _, .lenAccept _ => s.withByte .awaitLength b
  | b :: _, .lenZero => s.withByte .awaitLength b
  | b :: _, .lenOversize _ => s.withByte .awaitLength b
  | b :: _, .payStore _ => (s.loadLength 2#8).withByte .awaitPayload b
  | b :: _, .payComplete _ => (s.loadLength 1#8).withByte .awaitPayload b
  | b :: _, _ => s.withByte .idle b
  | [], _ => s

/-- Set all that it takes for the very next step to run `i` (log entry 7). -/
def State.placing (i : Instr) (s : State) : State :=
  match i.family with
  | .command => s.withFrame (encode i)
  | .event => s.withPayload ((encode i).drop 2)
  | .byteStep => s.placingByteStep i

end Sys2Proof.Machine
end

