-- ==== Sys2Proof/Machine/Step.lean ====
section
/-! DEFINITION. One step of the machine: one input of the environment is taken (10_state.md R36, R39; R58). -/
namespace Sys2Proof.Machine

/-- One step. With nothing presented the state keeps its value and there is no output (10_state.md R36). -/
def step (s : State) : Host.Outcome State Fault Refusal :=
  match s.inputs with
  | [] => .next (s.advance [])
  | .rx b :: rest => runByte b (s.advance rest)
  | .cmd op a0 a1 a2 :: rest => runCommand op a0 a1 a2 (s.advance rest)
  | .reset :: rest => .next (s.advance rest).applyReset

/-- The state in which the very next step runs the instruction of a table word (log entry 7); a word that is no
instruction is presented byte by byte on the receive port. DESIGN CHOICE (log entry 7): the word is read at the default
capacity, whatever the capacity of `s`. -/
def State.withFetchWord (s : State) (nbits w : Nat) : State :=
  match decodeTableWord nbits w with
  | some i => s.placing i
  | none => { s with inputs := (tableBytes (nbits / 8) w).map Input.rx ++ s.inputs }

end Sys2Proof.Machine
end

