-- ==== Sys2Proof/Machine/Feed.lean ====
section
/-!
DEFINITION. Feeding a chunk of bytes (40_decoder_framing.md R118): one step for each byte, the outputs collected in
step order, events and errors in one sequence (10_state.md R42).
-/
namespace Sys2Proof.Machine

/-- What feeding a chunk answers: the state after it and the outputs that are not `None`, in order. -/
abbrev FeedResult := Host.Outcome (State × List Out) Fault Refusal

/-- `feed` (40_decoder_framing.md R118). A step that stops stops the feeding. -/
def feed : State → List Byte → FeedResult
  | s, [] => .next (s, [])
  | s, b :: rest =>
    match step (s.present (.rx b)) with
    | .fault e => .fault e
    | .refused e => .refused e
    | .next t =>
      match feed t rest with
      | .fault e => .fault e
      | .refused e => .refused e
      | .next (u, os) => .next (u, t.out.toList ++ os)

end Sys2Proof.Machine
end

