-- ==== Sys2Proof/Machine/Ports.lean ====
section
/-!
DEFINITION. The signals of the block's ports as the step just taken shows them (10_state.md R36 to R38, R43), computed
from the state; and the binary codes of the parse state (R21). A signal the spec leaves unspecified is a free value.
-/
namespace Sys2Proof.Machine

/-- The binary encoding of `st` (10_state.md R21). -/
def stCode : ParseState → BitVec 2
  | .idle => 0#2
  | .awaitLength => 1#2
  | .awaitPayload => 2#2

/-- The parse state a pattern of `st` stands for: pattern 3, if forced, behaves as `Idle` (10_state.md R21). -/
def stOfCode (c : BitVec 2) : ParseState :=
  if c = 1#2 then .awaitLength else if c = 2#2 then .awaitPayload else .idle

/-- `ev_kind` of an event (10_state.md R43). -/
def eventKind : Event → BitVec 4
  | .unhandled _ _ => 0#4
  | .membranePress _ _ => 1#4
  | .membraneRelease _ _ => 2#4
  | .switch _ _ => 3#4
  | .sensorChange _ _ => 4#4
  | .version _ _ => 5#4
  | .onOffSwitch _ => 6#4
  | .correctMembrane _ _ => 7#4
  | .correctSwitch _ _ => 8#4
  | .correctDone => 9#4
  | .connect => 10#4
  | .disconnect => 11#4
  | .serialNumber _ => 12#4
  | .empty => 13#4

/-- The event port (10_state.md R37). -/
structure EventPort where
  valid : Bool
  kind : BitVec 4
  len : Byte
  type : Byte
  arg0 : Byte
  arg1 : Byte
  payload : List Byte
deriving DecidableEq, Repr

/-- The error port (10_state.md R38). -/
structure ErrorPort where
  valid : Bool
  code : BitVec 2
  len : Byte
deriving DecidableEq, Repr

/-- Buffer byte `i` as `ev_type`, `ev_arg0` and `ev_arg1` show it in a step whose event has length `n`: unspecified
past the length (10_state.md R37), and then the same free value as the event's own argument (41_event_dispatch.md
R141 "ev_arg0 = x, ev_arg1 = y"). -/
def State.portByte (s : State) (n i : Nat) : Byte :=
  if i < n then s.dec.bufByte i else Config.freeByte s.draws (.eventArg i)

/-- `ev_payload[0..CAP-1]` in a step whose event has length `n` (10_state.md R37). -/
def State.portPayload (s : State) (n : Nat) : List Byte :=
  (List.range s.cap).map fun i =>
    if i < n then s.dec.bufByte i else Config.freeByte s.draws (.portPayload i)

/-- The event port after the step just taken: meaningful in an emitting step only (10_state.md R37). -/
def State.eventPort (s : State) : EventPort :=
  match s.out with
  | .ev e n =>
    { valid := true, kind := eventKind e, len := BitVec.ofNat 8 n, type := s.portByte n 0, arg0 := s.portByte n 1,
      arg1 := s.portByte n 2, payload := s.portPayload n }
  | .none =>
    { valid := false, kind := (Config.freeByte s.draws .portKind).setWidth 4, len := Config.freeByte s.draws .portLen,
      type := s.portByte 0 0, arg0 := s.portByte 0 1, arg1 := s.portByte 0 2, payload := s.portPayload 0 }
  | .err _ _ =>
    { valid := false, kind := (Config.freeByte s.draws .portKind).setWidth 4, len := Config.freeByte s.draws .portLen,
      type := s.portByte 0 0, arg0 := s.portByte 0 1, arg1 := s.portByte 0 2, payload := s.portPayload 0 }

/-- The code of an error on the error port (10_state.md R38, 60_exceptions.md R201). -/
def errorCode : CodecError → BitVec 2
  | .frameTooLarge => 1#2

/-- The error port after the step just taken: `err_code` 0 means no error, and `err_len` is then unspecified
(10_state.md R38, 93_implementation_defined.md U13). -/
def State.errorPort (s : State) : ErrorPort :=
  match s.out with
  | .err e b => { valid := true, code := errorCode e, len := b }
  | .none => { valid := false, code := 0#2, len := Config.freeByte s.draws .errLen }
  | .ev _ _ => { valid := false, code := 0#2, len := Config.freeByte s.draws .errLen }

/-- The receive port as the next step will see it (10_state.md R36): `rx_data` where `rx_valid = 1`. -/
def State.rxPort (s : State) : Option Byte :=
  match s.inputs with
  | .rx b :: _ => some b
  | .cmd _ _ _ _ :: _ => none
  | .reset :: _ => none
  | [] => none

end Sys2Proof.Machine
end

