-- ==== Sys2Proof/Safety.lean ====
section
/-!
DEFINITION. What a safe run is: the invariant of 10_state.md R25 with the buffer's form and bound (20_memory.md R52),
and steps that go on (70_reset_and_hazards.md R247).
-/
namespace Sys2Proof.Machine

/-- The capacity is legal (00_scope.md R9). -/
def legalCap (cap : Nat) : Prop := Config.minCap ≤ cap ∧ cap ≤ Config.maxCap

/-- `received <= expected <= CAP` whatever `st` is, and strictly awaiting a byte in `AwaitPayload` (10_state.md R25). -/
def DecoderState.cursorOk (cap : Nat) (d : DecoderState) : Prop :=
  d.received.toNat ≤ d.expected.toNat ∧ d.expected.toNat ≤ cap ∧
    (d.st = .awaitPayload → 1 ≤ d.expected.toNat ∧ d.received.toNat < d.expected.toNat)

/-- The payload bytes stored so far are all written bytes (10_state.md R24). -/
def DecoderState.stored (d : DecoderState) : Prop :=
  d.st = .awaitPayload → ∀ i, i < d.received.toNat → (d.buf.read i).isSome = true

/-- The invariant of every state that a run from reset reaches. -/
structure State.Inv (s : State) : Prop where
  cap : legalCap s.cap
  cursor : s.dec.cursorOk s.cap
  form : s.dec.buf.wf = true
  bound : s.dec.buf.within s.cap = true
  stored : s.dec.stored

/-- Two decoder states that no specified output tells apart (10_state.md R35, R24): the same parse state, and inside
a payload the same registers and the same stored bytes. -/
def DecoderState.alike (d e : DecoderState) : Prop :=
  d.st = e.st ∧
    (d.st = .awaitPayload →
      d.expected = e.expected ∧ d.received = e.received ∧ ∀ i, i < d.received.toNat → d.bufByte i = e.bufByte i)

end Sys2Proof.Machine
end

