-- ==== Sys2Proof/Certificates/Slice0/Obligations.lean ====
section
/-!
DEFINITION. The statements for the provers. Most conclusions are an equation `exec i s = .next { s with … }`, which says
the new values and, by the record's other fields, that nothing else changes.
-/

open Sys2Proof Sys2Proof.Machine

namespace Sys2Proof.Claims

/-! ## The words the statements use, written from the rules and not from the meanings -/

/-- The state a step starts its instruction from: the input consumed, no output yet, a draw of its own. -/
def taken (s : State) (rest : List Input) : State :=
  { s with inputs := rest, out := .none, draws := s.draws + 1 }

/-- Buffer byte `i` after byte `b` is stored at the cursor (40_decoder_framing.md R117, `buf'`). -/
def frameByte (s : State) (b : Byte) (i : Nat) : Byte :=
  if i = s.dec.received.toNat then b else s.dec.bufByte i

/-- The byte at payload offset `i` of a payload of length `n`: unspecified at or past the length
(41_event_dispatch.md R140, R155). -/
def atOffset (draw n : Nat) (buf : Nat → Byte) (i : Nat) : Byte :=
  if i < n then buf i else Config.freeByte draw (.eventArg i)

/-- The twelve type codes with a variant of their own (30_encoding.md R87). -/
def typedCodes : List Byte :=
  [52#8, 53#8, 54#8, 55#8, 56#8, 58#8, 62#8, 63#8, 64#8, 81#8, 82#8, 83#8]

/-- `decode_event(n, buf)` as 41_event_dispatch.md R140 writes it. -/
def decodeEvent (draw n : Nat) (buf : Nat → Byte) : Event :=
  let a := atOffset draw n buf
  if n = 0 then .empty
  else if buf 0 = 52#8 then .membranePress (a 1) (a 2)
  else if buf 0 = 53#8 then .membraneRelease (a 1) (a 2)
  else if buf 0 = 54#8 then .switch (a 1) (a 2)
  else if buf 0 = 55#8 then .sensorChange (a 1) (a 2)
  else if buf 0 = 56#8 then .version (a 1) (a 2)
  else if buf 0 = 58#8 then .onOffSwitch (a 1)
  else if buf 0 = 62#8 then .correctMembrane (a 1) (a 2)
  else if buf 0 = 63#8 then .correctSwitch (a 1) (a 2)
  else if buf 0 = 64#8 then .correctDone
  else if buf 0 = 81#8 then .connect
  else if buf 0 = 82#8 then .disconnect
  else if buf 0 = 83#8 then .serialNumber ((List.range (n - 1)).map fun k => buf (k + 1))
  else .unhandled (buf 0) ((List.range n).map buf)

/-- Byte `b` is received in `AwaitPayload` and completes the payload (40_decoder_framing.md R117). -/
structure Completing (s : State) (b : Byte) (rest : List Input) : Prop where
  received : s.inputs = .rx b :: rest
  awaiting : s.dec.st = .awaitPayload
  last : s.dec.received.toNat + 1 = s.dec.expected.toNat
  room : s.dec.received.toNat < s.cap

/-- The error port shows no error. -/
def noError (s : State) : Prop := s.errorPort.valid = false ∧ s.errorPort.code = 0#2

/-- A 3-byte frame at the encoder's port. -/
def port3 (op : Byte) : EncoderPort :=
  { ok := true, len := 3#3, b0 := 0xFF#8, b1 := 1#8, b2 := op, b3 := 0#8, b4 := 0#8, b5 := 0#8 }

/-- The state after a command without arguments: its frame at the port and on the transmit stream, nothing else. -/
def after3 (op : Byte) (s : State) : State :=
  { s with enc := port3 op, tx := s.tx ++ [0xFF#8, 1#8, op] }

end Sys2Proof.Claims

open Sys2Proof.Claims

/-! ## Reset -/

/-- 10_state.md R34, 70_reset_and_hazards.md R230: what reset leaves, for every capacity. The empty `tx` and `inputs`
and the port's zeros are the model's choices (log entries 3, 4) and are not stated. -/
def Obligations.ResetLeavesAnIdleDecoder : Prop :=
  ∀ cap : Nat,
    (State.resetWith cap).cap = cap ∧ (State.resetWith cap).dec.st = .idle ∧ (State.resetWith cap).dec.received = 0#8 ∧
      (State.resetWith cap).dec.expected = 0#8 ∧ (∀ a, (State.resetWith cap).dec.buf.read a = none) ∧
      (State.resetWith cap).out = .none ∧ State.reset = State.resetWith 64

/-- 70_reset_and_hazards.md R231: reset from any state discards a partial frame without output, and gives the same
decoder from every state. -/
def Obligations.ResetDiscardsAPartialFrame : Prop :=
  ∀ (s : State) (rest : List Input), s.inputs = .reset :: rest →
    ∃ t, step s = .next t ∧ t.dec.st = .idle ∧ t.dec.received = 0#8 ∧ t.dec.expected = 0#8 ∧
      (∀ a, t.dec.buf.read a = none) ∧ t.out = .none ∧ t.enc = s.enc ∧ t.tx = s.tx ∧ t.cap = s.cap ∧ t.inputs = rest

/-- 10_state.md R36: with no byte presented the state keeps its value and there is no output. -/
def Obligations.NoInputKeepsTheState : Prop :=
  ∀ s : State, s.inputs = [] →
    ∃ t, step s = .next t ∧ t.dec = s.dec ∧ t.enc = s.enc ∧ t.tx = s.tx ∧ t.cap = s.cap ∧ t.inputs = [] ∧
      t.eventPort.valid = false ∧ noError t

/-! ## The byte-steps, 40_decoder_framing.md R111 to R117: what each does in every state, and when a step runs it -/

/-- R111. -/
def Obligations.IdleSkipDiscardsTheByte : Prop :=
  (∀ (s : State) (b : Byte), exec (.idleSkip b) s = .next { s with dec := { s.dec with st := .idle }, out := .none }) ∧
    ∀ (s : State) (b : Byte) (rest : List Input), s.inputs = .rx b :: rest → s.dec.st = .idle → b ≠ 0xFF#8 →
      step s = exec (.idleSkip b) (taken s rest) ∧ step s = .next (taken s rest)

/-- R112. -/
def Obligations.IdleSyncOpensAFrame : Prop :=
  (∀ s : State, exec .idleSync s = .next { s with dec := { s.dec with st := .awaitLength }, out := .none }) ∧
    ∀ (s : State) (rest : List Input), s.inputs = .rx 0xFF#8 :: rest → s.dec.st = .idle →
      step s = exec .idleSync (taken s rest)

/-- R113. -/
def Obligations.LenAcceptLoadsTheLength : Prop :=
  (∀ (s : State) (b : Byte),
    exec (.lenAccept b) s =
      .next { s with dec := { s.dec with st := .awaitPayload, expected := b, received := 0#8 }, out := .none }) ∧
    ∀ (s : State) (b : Byte) (rest : List Input), s.inputs = .rx b :: rest → s.dec.st = .awaitLength →
      1 ≤ b.toNat → b.toNat ≤ s.cap → step s = exec (.lenAccept b) (taken s rest)

/-- R114, 41_event_dispatch.md R154. -/
def Obligations.LenZeroCompletesAtOnce : Prop :=
  (∀ s : State,
    exec .lenZero s =
      .next { s with dec := { s.dec with st := .idle, expected := 0#8, received := 0#8 }, out := .ev .empty 0 }) ∧
    ∀ (s : State) (rest : List Input), s.inputs = .rx 0#8 :: rest → s.dec.st = .awaitLength →
      step s = exec .lenZero (taken s rest) ∧
        ∃ t, step s = .next t ∧ t.eventPort.valid = true ∧ t.eventPort.kind = 13#4 ∧ t.eventPort.len = 0#8 ∧ noError t

/-- R115. -/
def Obligations.LenOversizeRaisesFrameTooLarge : Prop :=
  (∀ (s : State) (b : Byte),
    exec (.lenOversize b) s =
      .next { s with dec := { s.dec with st := .idle }, out := .err .frameTooLarge b }) ∧
    ∀ (s : State) (b : Byte) (rest : List Input), s.inputs = .rx b :: rest → s.dec.st = .awaitLength →
      s.cap < b.toNat → step s = exec (.lenOversize b) (taken s rest)

/-- R116. -/
def Obligations.PayStoreStoresOneByte : Prop :=
  (∀ (s : State) (b : Byte), s.dec.received.toNat < s.cap →
    ∃ t, exec (.payStore b) s = .next t ∧ t.dec.st = .awaitPayload ∧ t.dec.expected = s.dec.expected ∧
      t.dec.received = s.dec.received + 1#8 ∧ t.dec.buf.read s.dec.received.toNat = some b ∧
      (∀ a, a ≠ s.dec.received.toNat → t.dec.buf.read a = s.dec.buf.read a) ∧ t.out = .none ∧
      t.cap = s.cap ∧ t.enc = s.enc ∧ t.tx = s.tx ∧ t.inputs = s.inputs ∧ t.draws = s.draws) ∧
    ∀ (s : State) (b : Byte) (rest : List Input), s.inputs = .rx b :: rest → s.dec.st = .awaitPayload →
      s.dec.received.toNat + 1 < s.dec.expected.toNat → step s = exec (.payStore b) (taken s rest)

/-- R117: the byte is stored and the whole payload, this byte included, is decoded in the same step. -/
def Obligations.PayCompleteEmitsTheEvent : Prop :=
  (∀ (s : State) (b : Byte), s.dec.received.toNat < s.cap →
    ∃ t, exec (.payComplete b) s = .next t ∧
      t.out = .ev (decodeEvent s.draws s.dec.expected.toNat (frameByte s b)) s.dec.expected.toNat ∧
      t.dec.st = .idle ∧ t.dec.expected = s.dec.expected ∧ t.dec.received = s.dec.received + 1#8 ∧
      t.dec.buf.read s.dec.received.toNat = some b ∧
      (∀ a, a ≠ s.dec.received.toNat → t.dec.buf.read a = s.dec.buf.read a) ∧
      t.cap = s.cap ∧ t.enc = s.enc ∧ t.tx = s.tx ∧ t.inputs = s.inputs ∧ t.draws = s.draws) ∧
    ∀ (s : State) (b : Byte) (rest : List Input), Completing s b rest →
      step s = exec (.payComplete b) (taken s rest) ∧ s.dec.received + 1#8 = s.dec.expected

/-- 40_decoder_framing.md R110: the whole table, one clause a row, from every state that keeps R25; and no step where
no byte is presented. -/
def Obligations.EveryByteFollowsTheStepTable : Prop :=
  (∀ s : State, s.inputs = [] → ∃ t, step s = .next t ∧ t.dec = s.dec ∧ t.out = .none) ∧
  ∀ (s : State) (b : Byte) (rest : List Input), s.Inv → s.inputs = .rx b :: rest →
    ∃ t, step s = .next t ∧
      (s.dec.st = .idle → b ≠ 0xFF#8 → t.dec = s.dec ∧ t.out = .none) ∧
      (s.dec.st = .idle → b = 0xFF#8 → t.dec = { s.dec with st := .awaitLength } ∧ t.out = .none) ∧
      (s.dec.st = .awaitLength → 1 ≤ b.toNat → b.toNat ≤ s.cap →
        t.dec = { s.dec with st := .awaitPayload, expected := b, received := 0#8 } ∧ t.out = .none) ∧
      (s.dec.st = .awaitLength → b = 0#8 →
        t.dec = { s.dec with st := .idle, expected := 0#8, received := 0#8 } ∧ t.out = .ev .empty 0) ∧
      (s.dec.st = .awaitLength → s.cap < b.toNat →
        t.dec = { s.dec with st := .idle } ∧ t.out = .err .frameTooLarge b) ∧
      (s.dec.st = .awaitPayload → s.dec.received.toNat + 1 < s.dec.expected.toNat →
        t.dec.st = .awaitPayload ∧ t.dec.expected = s.dec.expected ∧
          t.dec.received.toNat = s.dec.received.toNat + 1 ∧ (∀ i, t.dec.bufByte i = frameByte s b i) ∧ t.out = .none) ∧
      (s.dec.st = .awaitPayload → s.dec.received.toNat + 1 = s.dec.expected.toNat →
        t.dec.st = .idle ∧ t.dec.expected = s.dec.expected ∧ t.dec.received = s.dec.expected ∧
          (∀ i, t.dec.bufByte i = frameByte s b i) ∧
          t.out = .ev (decodeEvent t.draws s.dec.expected.toNat (frameByte s b)) s.dec.expected.toNat)

/-- A step runs the instruction the decoder reads: on a received byte, on a command at the raw opcode port, and, at the
byte that completes a payload, the event variant the payload selects. -/
def Obligations.StepRunsTheDecodedInstruction : Prop :=
  (∀ (s : State) (b : Byte) (rest : List Input) (i : Instr), s.inputs = .rx b :: rest →
    decode (.byte s.cap s.dec.st s.dec.expected s.dec.received) [b] = .ok (i, []) →
      step s = exec i (taken s rest)) ∧
    (∀ (s : State) (op a0 a1 a2 : Byte) (rest : List Input) (i : Instr), s.inputs = .cmd op a0 a1 a2 :: rest →
      selectCommand op a0 a1 a2 = some i → step s = exec i (taken s rest)) ∧
    ∀ (s : State) (b : Byte) (rest : List Input) (i : Instr), Completing s b rest →
      decode (.frame s.cap)
        (0xFF#8 :: s.dec.expected :: (List.range s.dec.expected.toNat).map (frameByte s b)) = .ok (i, []) →
      step s = exec i { taken s rest with
        dec := { st := .idle, expected := s.dec.expected, received := s.dec.expected,
                 buf := s.dec.buf.write s.dec.received.toNat b } }

/-- Two cases in which a step faults: the byte the step table has no row for (40_decoder_framing.md R110, "cannot
arise"), and a payload byte past the buffer (20_memory.md R50, R52), for which the table has a row whose store would be
at an index that does not exist. That the model stops there is its own choice (log entry 8). -/
def Obligations.StepsFaultOnAByteOffTheTableOrPastTheBuffer : Prop :=
  (∀ (s : State) (b : Byte) (rest : List Input), s.inputs = .rx b :: rest → s.dec.st = .awaitPayload →
    s.dec.expected.toNat < s.dec.received.toNat + 1 → step s = .fault .cursorPastLength) ∧
    ∀ (s : State) (b : Byte) (rest : List Input), s.inputs = .rx b :: rest → s.dec.st = .awaitPayload →
      s.dec.received.toNat + 1 ≤ s.dec.expected.toNat → s.cap ≤ s.dec.received.toNat → step s = .fault .bufferBound

/-- 60_exceptions.md R201: when `FrameTooLarge` is raised, its code, the length it records, and the recovery, which
writes nothing but `st`. -/
def Obligations.FrameTooLargeExactlyOnAnOversizedLength : Prop :=
  ∀ s t : State, step s = .next t →
    ((∃ e n, t.out = .err e n) ↔
      ∃ b rest, s.inputs = .rx b :: rest ∧ s.dec.st = .awaitLength ∧ s.cap < b.toNat) ∧
    ∀ b rest, s.inputs = .rx b :: rest → s.dec.st = .awaitLength → s.cap < b.toNat →
      t.out = .err .frameTooLarge b ∧ t.errorPort.valid = true ∧ t.errorPort.code = 1#2 ∧ t.errorPort.len = b ∧
      t.dec = { s.dec with st := .idle }

/-! ## The event variants, 41_event_dispatch.md R140 to R156 -/

/-- R140: the hand-over of any payload runs `decode_event`, writes nothing but the output, and never fails. -/
def Obligations.EventDecoderFollowsTheTypeTable : Prop :=
  ∀ (p : List Byte) (s : State),
    exec (selectEvent p) s =
      .next { s with out := .ev (decodeEvent s.draws p.length fun i => p.getD i 0#8) p.length }

/-- R141 to R145, R147, R148 with both arguments present, and R156: further bytes are ignored. -/
def Obligations.TwoArgumentEventsReadOffsetsOneAndTwo : Prop :=
  ∀ (s : State) (x y : Byte) (more : List Byte),
    exec (.membranePress (x :: y :: more)) s = .next { s with out := .ev (.membranePress x y) (more.length + 3) } ∧
    exec (.membraneRelease (x :: y :: more)) s = .next { s with out := .ev (.membraneRelease x y) (more.length + 3) } ∧
    exec (.switch (x :: y :: more)) s = .next { s with out := .ev (.switch x y) (more.length + 3) } ∧
    exec (.sensorChange (x :: y :: more)) s = .next { s with out := .ev (.sensorChange x y) (more.length + 3) } ∧
    exec (.version (x :: y :: more)) s = .next { s with out := .ev (.version x y) (more.length + 3) } ∧
    exec (.correctMembrane (x :: y :: more)) s = .next { s with out := .ev (.correctMembrane x y) (more.length + 3) } ∧
    exec (.correctSwitch (x :: y :: more)) s = .next { s with out := .ev (.correctSwitch x y) (more.length + 3) }

/-- R155: the variant is the one the type code selects, the argument present is exact, a missing one is some byte
(the model's free value, log entry 6: nothing is said of it), and no error is raised. -/
def Obligations.ShortPayloadsKeepTheirVariant : Prop :=
  ∀ (s : State) (x : Byte),
    (∃ y, exec (.membranePress [x]) s = .next { s with out := .ev (.membranePress x y) 2 }) ∧
    (∃ x' y, exec (.membranePress []) s = .next { s with out := .ev (.membranePress x' y) 1 }) ∧
    (∃ y, exec (.membraneRelease [x]) s = .next { s with out := .ev (.membraneRelease x y) 2 }) ∧
    (∃ x' y, exec (.membraneRelease []) s = .next { s with out := .ev (.membraneRelease x' y) 1 }) ∧
    (∃ y, exec (.switch [x]) s = .next { s with out := .ev (.switch x y) 2 }) ∧
    (∃ x' y, exec (.switch []) s = .next { s with out := .ev (.switch x' y) 1 }) ∧
    (∃ y, exec (.sensorChange [x]) s = .next { s with out := .ev (.sensorChange x y) 2 }) ∧
    (∃ x' y, exec (.sensorChange []) s = .next { s with out := .ev (.sensorChange x' y) 1 }) ∧
    (∃ y, exec (.version [x]) s = .next { s with out := .ev (.version x y) 2 }) ∧
    (∃ x' y, exec (.version []) s = .next { s with out := .ev (.version x' y) 1 }) ∧
    (∃ y, exec (.correctMembrane [x]) s = .next { s with out := .ev (.correctMembrane x y) 2 }) ∧
    (∃ x' y, exec (.correctMembrane []) s = .next { s with out := .ev (.correctMembrane x' y) 1 }) ∧
    (∃ y, exec (.correctSwitch [x]) s = .next { s with out := .ev (.correctSwitch x y) 2 }) ∧
    (∃ x' y, exec (.correctSwitch []) s = .next { s with out := .ev (.correctSwitch x' y) 1 }) ∧
    (∃ x', exec (.onOffSwitch []) s = .next { s with out := .ev (.onOffSwitch x') 1 })

/-- R146, R149 to R151 with R156: one argument or none, and any further bytes ignored. -/
def Obligations.OneAndNoArgumentEventsIgnoreFurtherBytes : Prop :=
  ∀ (s : State) (x : Byte) (more : List Byte),
    exec (.onOffSwitch (x :: more)) s = .next { s with out := .ev (.onOffSwitch x) (more.length + 2) } ∧
    exec (.correctDone more) s = .next { s with out := .ev .correctDone (more.length + 1) } ∧
    exec (.connect more) s = .next { s with out := .ev .connect (more.length + 1) } ∧
    exec (.disconnect more) s = .next { s with out := .ev .disconnect (more.length + 1) }

/-- R152, R153, R154: the string, the raw payload, and the event of no payload. -/
def Obligations.StringRawAndEmptyEvents : Prop :=
  (∀ (s : State) (chars : List Byte),
    exec (.serialNumber chars) s = .next { s with out := .ev (.serialNumber chars) (chars.length + 1) }) ∧
    (∀ (s : State) (code : Byte) (args : List Byte),
      exec (.unhandled code args) s =
        .next { s with out := .ev (.unhandled code (code :: args)) (args.length + 1) }) ∧
    ∀ s : State, exec .empty s = .next { s with out := .ev .empty 0 }

/-- R141 to R145, R147, R148 on the port: the step that completes a payload of the type code shows the variant, its
arguments (unspecified past the length, R155), its kind and its length, and no error. -/
def Obligations.TwoArgumentEventsOnThePort : Prop :=
  ∀ row ∈ [(52#8, 1#4, Event.membranePress), (53#8, 2#4, Event.membraneRelease), (54#8, 3#4, Event.switch),
      (55#8, 4#4, Event.sensorChange), (56#8, 5#4, Event.version), (62#8, 7#4, Event.correctMembrane),
      (63#8, 8#4, Event.correctSwitch)],
    ∀ (s : State) (b : Byte) (rest : List Input), Completing s b rest → frameByte s b 0 = row.1 →
      ∃ t, step s = .next t ∧
        t.out = .ev (row.2.2 (atOffset t.draws s.dec.expected.toNat (frameByte s b) 1)
          (atOffset t.draws s.dec.expected.toNat (frameByte s b) 2)) s.dec.expected.toNat ∧
        t.eventPort.valid = true ∧ t.eventPort.kind = row.2.1 ∧ t.eventPort.type = row.1 ∧
        t.eventPort.arg0 = atOffset t.draws s.dec.expected.toNat (frameByte s b) 1 ∧
        t.eventPort.arg1 = atOffset t.draws s.dec.expected.toNat (frameByte s b) 2 ∧
        t.eventPort.len = s.dec.expected ∧ noError t

/-- R146, R149 to R151 on the port, and the decoder's state, which is that of any completing step: `Connect` and
`Disconnect` have no effect of their own on it. -/
def Obligations.OneAndNoArgumentEventsOnThePort : Prop :=
  ∀ row ∈ [(58#8, 6#4, fun x : Byte => Event.onOffSwitch x), (64#8, 9#4, fun _ => Event.correctDone),
      (81#8, 10#4, fun _ => Event.connect), (82#8, 11#4, fun _ => Event.disconnect)],
    ∀ (s : State) (b : Byte) (rest : List Input), Completing s b rest → frameByte s b 0 = row.1 →
      ∃ t, step s = .next t ∧
        t.out = .ev (row.2.2 (atOffset t.draws s.dec.expected.toNat (frameByte s b) 1)) s.dec.expected.toNat ∧
        t.dec.st = .idle ∧ t.dec.expected = s.dec.expected ∧ t.dec.received = s.dec.expected ∧
        (∀ i, t.dec.bufByte i = frameByte s b i) ∧
        t.eventPort.valid = true ∧ t.eventPort.kind = row.2.1 ∧ t.eventPort.type = row.1 ∧
        t.eventPort.arg0 = atOffset t.draws s.dec.expected.toNat (frameByte s b) 1 ∧
        t.eventPort.arg1 = atOffset t.draws s.dec.expected.toNat (frameByte s b) 2 ∧
        t.eventPort.len = s.dec.expected ∧ noError t

/-- R152 on the port: the string is `payload[1 .. n)`, and `ev_payload` shows it. -/
def Obligations.SerialNumberOnThePort : Prop :=
  ∀ (s : State) (b : Byte) (rest : List Input), Completing s b rest → s.dec.expected.toNat ≤ s.cap →
    frameByte s b 0 = 83#8 →
      ∃ t str, step s = .next t ∧ t.out = .ev (.serialNumber str) s.dec.expected.toNat ∧
        str.length + 1 = s.dec.expected.toNat ∧ (∀ k, k < str.length → str[k]? = some (frameByte s b (k + 1))) ∧
        t.eventPort.valid = true ∧ t.eventPort.kind = 12#4 ∧ t.eventPort.type = 83#8 ∧
        t.eventPort.len = s.dec.expected ∧
        (1 ≤ str.length → t.eventPort.arg0 = frameByte s b 1) ∧ (2 ≤ str.length → t.eventPort.arg1 = frameByte s b 2) ∧
        (∀ i, i < s.dec.expected.toNat → t.eventPort.payload[i]? = some (frameByte s b i)) ∧ noError t

/-- R153 on the port, for each of the 244 codes: the code, the whole payload, and no error. -/
def Obligations.UnhandledOnThePort : Prop :=
  ∀ (s : State) (b : Byte) (rest : List Input), Completing s b rest → s.dec.expected.toNat ≤ s.cap →
    frameByte s b 0 ∉ typedCodes →
      ∃ t raw, step s = .next t ∧ t.out = .ev (.unhandled (frameByte s b 0) raw) s.dec.expected.toNat ∧
        raw.length = s.dec.expected.toNat ∧ (∀ k, k < raw.length → raw[k]? = some (frameByte s b k)) ∧
        t.eventPort.valid = true ∧ t.eventPort.kind = 0#4 ∧ t.eventPort.type = frameByte s b 0 ∧
        t.eventPort.len = s.dec.expected ∧
        (∀ i, i < s.dec.expected.toNat → t.eventPort.payload[i]? = some (frameByte s b i)) ∧ noError t

/-! ## The commands, 42_command_encoder.md R170 to R195 -/

/-- R171, R173, R175 to R181: the frame at the port and on the transmit stream, and nothing else written. -/
def Obligations.CommandsOneToElevenPresentTheirFrames : Prop :=
  ∀ s : State,
    exec .getVersion s = .next (after3 1#8 s) ∧ exec .scan s = .next (after3 3#8 s) ∧
    exec .getEvent s = .next (after3 5#8 s) ∧ exec .init s = .next (after3 6#8 s) ∧
    exec .eepromRead s = .next (after3 7#8 s) ∧ exec .eepromWrite s = .next (after3 8#8 s) ∧
    exec .getOnOff s = .next (after3 9#8 s) ∧ exec .getCorrect s = .next (after3 10#8 s) ∧
    exec .eepromReadByte s = .next (after3 11#8 s)

/-- R182 to R189. -/
def Obligations.CommandsTwelveToFortyPresentTheirFrames : Prop :=
  ∀ s : State,
    exec .resetDevice s = .next (after3 12#8 s) ∧ exec .startAuto s = .next (after3 13#8 s) ∧
    exec .stopAuto s = .next (after3 14#8 s) ∧ exec .allLeds s = .next (after3 15#8 s) ∧
    exec .startOutput s = .next (after3 16#8 s) ∧ exec .stopOutput s = .next (after3 17#8 s) ∧
    exec .allSensors s = .next (after3 18#8 s) ∧ exec .getSerialNumber s = .next (after3 40#8 s)

/-- R172 and R174: the arguments in order, not validated and not escaped (R194). -/
def Obligations.SetLedAndSetTonePresentTheirArguments : Prop :=
  ∀ (s : State) (a b c : Byte),
    exec (.setLed a b) s =
      .next { s with
        enc := { ok := true, len := 5#3, b0 := 0xFF#8, b1 := 3#8, b2 := 2#8, b3 := a, b4 := b, b5 := 0#8 }
        tx := s.tx ++ [0xFF#8, 3#8, 2#8, a, b] } ∧
    exec (.setTone a b c) s =
      .next { s with
        enc := { ok := true, len := 6#3, b0 := 0xFF#8, b1 := 4#8, b2 := 4#8, b3 := a, b4 := b, b5 := c }
        tx := s.tx ++ [0xFF#8, 4#8, 4#8, a, b, c] }

/-- R192: the raw opcode port for every opcode and arguments; a refused opcode sends nothing and changes nothing else. -/
def Obligations.RawOpcodePortEncodesOrRefuses : Prop :=
  ∀ (s : State) (op a0 a1 a2 : Byte) (rest : List Input), s.inputs = .cmd op a0 a1 a2 :: rest →
    ∃ t, step s = .next t ∧ t.dec = s.dec ∧ t.out = .none ∧ t.cap = s.cap ∧ t.inputs = rest ∧
      t.enc = encodeRaw op a0 a1 a2 ∧
      (op = 2#8 → t.tx = s.tx ++ [0xFF#8, 3#8, 2#8, a0, a1] ∧
        t.enc = { ok := true, len := 5#3, b0 := 0xFF#8, b1 := 3#8, b2 := 2#8, b3 := a0, b4 := a1, b5 := 0#8 }) ∧
      (op = 4#8 → t.tx = s.tx ++ [0xFF#8, 4#8, 4#8, a0, a1, a2] ∧
        t.enc = { ok := true, len := 6#3, b0 := 0xFF#8, b1 := 4#8, b2 := 4#8, b3 := a0, b4 := a1, b5 := a2 }) ∧
      (op = 1#8 ∨ op = 3#8 ∨ (5 ≤ op.toNat ∧ op.toNat ≤ 18) ∨ op = 40#8 →
        t.tx = s.tx ++ [0xFF#8, 1#8, op] ∧ t.enc = port3 op) ∧
      (op.toNat = 0 ∨ (19 ≤ op.toNat ∧ op.toNat ≤ 39) ∨ 41 ≤ op.toNat →
        t.tx = s.tx ∧
        t.enc = { ok := false, len := 0#3, b0 := 0#8, b1 := 0#8, b2 := 0#8, b3 := 0#8, b4 := 0#8, b5 := 0#8 })

/-- R170 and 30_encoding.md R90: the shape and the length of every command's frame. -/
def Obligations.CommandFramesAreThreeFiveOrSixBytes : Prop :=
  ∀ (c : CommandName) (a0 a1 a2 : Byte),
    encode (commandWithArgs c a0 a1 a2) =
      [0xFF#8, BitVec.ofNat 8 (argCount c + 1), opcode c] ++ [a0, a1, a2].take (argCount c) ∧
    (encode (commandWithArgs c a0 a1 a2)).length = argCount c + 3 ∧
    argCount c = (if c = .setLed then 2 else if c = .setTone then 3 else 0)

/-- 20_memory.md R67, R44: a step puts onto the transmit stream nothing, or one command's whole frame, in order. -/
def Obligations.TransmitStreamGrowsByWholeFrames : Prop :=
  ∀ s t : State, step s = .next t →
    t.tx = s.tx ∨
      ∃ op a0 a1 a2 rest i, s.inputs = .cmd op a0 a1 a2 :: rest ∧ selectCommand op a0 a1 a2 = some i ∧
        i.family = .command ∧ t.tx = s.tx ++ encode i

/-- 20_memory.md R68: a step on a byte has no effect on the encoder, a command none on the decoder. -/
def Obligations.DecoderAndEncoderAreIndependent : Prop :=
  ∀ s t : State, step s = .next t →
    (∀ b rest, s.inputs = .rx b :: rest → t.enc = s.enc ∧ t.tx = s.tx) ∧
    ∀ op a0 a1 a2 rest, s.inputs = .cmd op a0 a1 a2 :: rest →
      t.dec = s.dec ∧ t.eventPort.valid = false ∧ noError t

/-! ## Frames -/

/-- 41_event_dispatch.md R160, 42_command_encoder.md R190: an event variant or a command changes nothing of the
decoder; an event variant changes the output alone, a command the encoder's port and the transmit stream alone. -/
def Obligations.EventsAndCommandsLeaveTheDecoder : Prop :=
  ∀ (i : Instr) (s t : State), exec i s = .next t →
    (i.family = .event → t = { s with out := t.out } ∧ ∀ a, t.dec.buf.read a = s.dec.buf.read a) ∧
    (i.family = .command → t = { s with enc := t.enc, tx := t.tx } ∧ ∀ a, t.dec.buf.read a = s.dec.buf.read a)

/-- The frame of the byte-steps: the encoder, the transmit stream, the capacity and the environment's inputs stay, and
of the buffer at most the byte at the cursor changes, and that only when a payload byte is stored
(20_memory.md R51, R69). -/
def Obligations.ByteStepsLeaveTheRest : Prop :=
  ∀ (i : Instr) (s t : State), i.family = .byteStep → exec i s = .next t →
    t.enc = s.enc ∧ t.tx = s.tx ∧ t.cap = s.cap ∧ t.inputs = s.inputs ∧ t.draws = s.draws ∧
      ∀ a, a ≠ s.dec.received.toNat ∨ (∀ b, i ≠ .payStore b ∧ i ≠ .payComplete b) →
        t.dec.buf.read a = s.dec.buf.read a

/-- 20_memory.md R51: a step writes at most one buffer byte, at the cursor, in `AwaitPayload`; a command writes none. -/
def Obligations.OnlyPayloadBytesAreWritten : Prop :=
  ∀ s t : State, step s = .next t →
    (∀ b rest, s.inputs = .rx b :: rest → s.dec.st = .awaitPayload →
      t.dec.buf.read s.dec.received.toNat = some b ∧
        ∀ a, a ≠ s.dec.received.toNat → t.dec.buf.read a = s.dec.buf.read a) ∧
    (∀ b rest, s.inputs = .rx b :: rest → s.dec.st ≠ .awaitPayload → t.dec.buf = s.dec.buf) ∧
    (s.inputs = [] → t.dec.buf = s.dec.buf) ∧
    ∀ op a0 a1 a2 rest, s.inputs = .cmd op a0 a1 a2 :: rest → t.dec.buf = s.dec.buf

/-- 41_event_dispatch.md R159, 10_state.md R30: no step's result depends on an earlier step's output. -/
def Obligations.NoStepReadsAnEarlierOutput : Prop :=
  ∀ (s : State) (o : Out), step { s with out := o } = step s

/-- 00_scope.md R9: the capacity is fixed for the life of an instance. -/
def Obligations.CapacityIsNeverWritten : Prop :=
  ∀ s t : State, step s = .next t → t.cap = s.cap

/-! ## The invariant -/

/-- The invariant holds at reset, for every legal capacity. -/
def Obligations.InvariantHoldsAtReset : Prop :=
  ∀ cap : Nat, legalCap cap → (State.resetWith cap).Inv

/-- From every state with the invariant a step goes on, never stops, and keeps it: the invariant of 10_state.md R25 and
the bound of 20_memory.md R52, which the spec derives, and the totality of 70_reset_and_hazards.md R247. -/
def Obligations.EveryStepGoesOnAndKeepsTheInvariant : Prop :=
  ∀ s : State, s.Inv → ∃ t, step s = .next t ∧ t.Inv

/-- The same along every run from reset, whatever the environment presents. -/
def Obligations.NoRunFromResetEverStops : Prop :=
  ∀ (cap : Nat) (inputs : List Input) (k : Nat), legalCap cap →
    ∃ t : State, Host.Core.run Sys2Proof.core k { State.resetWith cap with inputs := inputs } = .next t ∧ t.Inv

/-! ## Feeding, 40_decoder_framing.md R118 to R125 -/

/-- Chunk boundaries are unobservable: the sentence of R119, which the spec derives from R118. -/
def Obligations.FeedingIsChunkInvariant : Prop :=
  ∀ (s : State) (a b : List Byte),
    (∀ t os u os', feed s a = .next (t, os) → feed t b = .next (u, os') → feed s (a ++ b) = .next (u, os ++ os')) ∧
    ∀ u os, feed s (a ++ b) = .next (u, os) →
      ∃ t os₁ os₂, feed s a = .next (t, os₁) ∧ feed t b = .next (u, os₂) ∧ os = os₁ ++ os₂

/-- In `Idle`, bytes that are not `0xFF` give no output and leave the decoder as it is: the sentence of R123, which the
spec derives from R111. -/
def Obligations.IdleSkipsAnythingButSync : Prop :=
  ∀ (s : State) (bs : List Byte), s.dec.st = .idle → 0xFF#8 ∉ bs →
    ∃ u, feed s bs = .next (u, []) ∧ u.dec = s.dec

/-- At most one output a byte, and never an event and an error at once: the sentence of R121, which the spec derives
from R111 to R117. -/
def Obligations.AtMostOneOutputPerByte : Prop :=
  (∀ (s u : State) (bs : List Byte) (os : List Out), feed s bs = .next (u, os) → os.length ≤ bs.length) ∧
    ∀ s : State, ¬(s.eventPort.valid = true ∧ s.errorPort.valid = true)

/-- A well-formed frame from `Idle` gives exactly its event, at its last byte: the sentence of R122, which the spec
derives from R112, R113, R116, R117. -/
def Obligations.WellFormedFrameGivesItsEvent : Prop :=
  ∀ (s : State) (n : Byte) (p : List Byte), s.dec.st = .idle → 1 ≤ n.toNat → n.toNat ≤ s.cap → p.length = n.toNat →
    (∃ u, feed s ([0xFF#8, n] ++ p) =
        .next (u, [.ev (decodeEvent u.draws n.toNat fun i => p.getD i 0#8) n.toNat]) ∧
      u.dec.st = .idle ∧ u.dec.expected = n ∧ u.dec.received = n ∧ u.dec.payload n.toNat = p) ∧
    ∃ v, feed s ([0xFF#8, n] ++ p.dropLast) = .next (v, [])

/-- Every encoded command fed back gives one `Unhandled` event with its opcode and arguments, and a capacity too small
for the frame gives `FrameTooLarge`: the sentences of 42_command_encoder.md R193, which the spec derives from R170, R122,
R153 and R92. -/
def Obligations.EncodedCommandsComeBackUnhandled : Prop :=
  (∀ (s : State) (c : CommandName) (a0 a1 a2 : Byte), s.dec.st = .idle → 4 ≤ s.cap →
    ∃ u, feed s (encode (commandWithArgs c a0 a1 a2)) =
        .next (u, [.ev (.unhandled (opcode c) (opcode c :: [a0, a1, a2].take (argCount c))) (argCount c + 1)]) ∧
      u.dec.st = .idle) ∧
    (∀ (s : State) (a0 a1 a2 : Byte), s.Inv → s.dec.st = .idle → s.cap < 4 →
      ∃ u os, feed s (encode (.setTone a0 a1 a2)) = .next (u, .err .frameTooLarge 4#8 :: os)) ∧
    ∀ (s : State) (a0 a1 : Byte), s.Inv → s.dec.st = .idle → s.cap < 3 →
      ∃ u os, feed s (encode (.setLed a0 a1)) = .next (u, .err .frameTooLarge 3#8 :: os)

/-- `2 k` sync bytes from `Idle` give `k` errors, one a pair, and leave the decoder where it was: the sentences of
60_exceptions.md R206 and 70_reset_and_hazards.md R239, which the spec derives from R115 and R125. -/
def Obligations.RepeatedSyncBytesPairUp : Prop :=
  ∀ (s : State) (k : Nat), s.dec.st = .idle → s.cap < 255 →
    ∃ u, feed s (List.replicate (2 * k) 0xFF#8) = .next (u, List.replicate k (.err .frameTooLarge 0xFF#8)) ∧
      u.dec = s.dec

/-- 10_state.md R24, R35, 20_memory.md R69: two decoders in the same parse state, whatever stale bytes and stale
registers they hold, give the same specified outputs on every byte sequence. That the unspecified arguments of a short
payload agree too, which those rules except, is the model's choice of a free value that does not read the buffer, drawn
by the same draw number in both (log entry 6). -/
def Obligations.StaleBytesNeverShow : Prop :=
  ∀ (s r : State) (bs : List Byte), s.Inv → r.Inv → s.cap = r.cap → s.draws = r.draws → s.dec.alike r.dec →
    ∃ u v os, feed s bs = .next (u, os) ∧ feed r bs = .next (v, os) ∧ u.dec.alike v.dec

/-! ## Encoding -/

/-- Every well-formed event variant's frame decodes to it, whatever its payload bytes and whatever follows. -/
def Obligations.EventFramesDecodeBack : Prop :=
  ∀ (cap : Nat) (i : Instr) (rest : List Byte), cap ≤ 255 → i.family = .event → i.wellFormed cap = true →
    decode (.frame cap) (encode i ++ rest) = .ok (i, rest)

/-- Every command's frame decodes to it, whatever its arguments and whatever follows. -/
def Obligations.CommandFramesDecodeBack : Prop :=
  ∀ (i : Instr) (rest : List Byte), i.family = .command → decode .command (encode i ++ rest) = .ok (i, rest)

/-- Every well-formed byte-step's byte decodes to it in a parse state whose next byte may perform it. -/
def Obligations.ByteStepsDecodeBack : Prop :=
  ∀ (cap : Nat) (b expected received : Byte) (rest : List Byte),
    (b ≠ 0xFF#8 → decode (.byte cap .idle expected received) (encode (.idleSkip b) ++ rest) = .ok (.idleSkip b, rest)) ∧
    decode (.byte cap .idle expected received) (encode .idleSync ++ rest) = .ok (.idleSync, rest) ∧
    (1 ≤ b.toNat → b.toNat ≤ cap →
      decode (.byte cap .awaitLength expected received) (encode (.lenAccept b) ++ rest) = .ok (.lenAccept b, rest)) ∧
    decode (.byte cap .awaitLength expected received) (encode .lenZero ++ rest) = .ok (.lenZero, rest) ∧
    (cap < b.toNat →
      decode (.byte cap .awaitLength expected received) (encode (.lenOversize b) ++ rest) =
        .ok (.lenOversize b, rest)) ∧
    (received.toNat + 1 < expected.toNat →
      decode (.byte cap .awaitPayload expected received) (encode (.payStore b) ++ rest) = .ok (.payStore b, rest)) ∧
    (received.toNat + 1 = expected.toNat →
      decode (.byte cap .awaitPayload expected received) (encode (.payComplete b) ++ rest) =
        .ok (.payComplete b, rest))

/-- The other direction: what is decoded encodes to the bytes it was read from. -/
def Obligations.DecodedInstructionsEncodeBack : Prop :=
  ∀ (src : Source) (bs : List Byte) (i : Instr) (rest : List Byte),
    decode src bs = .ok (i, rest) → encode i ++ rest = bs

/-- The decoder answers well-formed instructions only, on every source of an instance of capacity `cap`. -/
def Obligations.DecodedInstructionsAreWellFormed : Prop :=
  ∀ (cap : Nat) (st : ParseState) (expected received : Byte) (bs : List Byte) (i : Instr) (rest : List Byte),
    decode .command bs = .ok (i, rest) ∨ decode (.frame cap) bs = .ok (i, rest) ∨
      decode (.byte cap st expected received) bs = .ok (i, rest) →
    i.wellFormed cap = true

/-- 30_encoding.md R87: exactly the 244 other type codes have no variant of their own, and give `Unhandled`. -/
def Obligations.OtherTypeCodesAreUnhandled : Prop :=
  (∀ (t : Byte) (args : List Byte), (selectEvent (t :: args) = .unhandled t args ↔ t ∉ typedCodes)) ∧
    ((List.range 256).filter fun n => decide (BitVec.ofNat 8 n ∉ typedCodes)).length = 244

/-- No opcode is an event type code: the first sentence of 30_encoding.md R92. -/
def Obligations.OpcodesAreNoTypeCodes : Prop :=
  ∀ (c : CommandName) (e : EventName), opcode c ≠ typeCode e

/-- Words of the table, one of each format, written from 30_encoding.md R86, R89, R93. Which bytes are a word's, and what
an open field or a lone byte stands for, is the model's choice (log entry 7). -/
def Obligations.TableWordsDecode : Prop :=
  decodeTableWord 24 0xFF0101 = some .getVersion ∧ decodeTableWord 40 0xFF03020100 = some (.setLed 1#8 0#8) ∧
    decodeTableWord 48 0xFF0404640502 = some (.setTone 100#8 5#8 2#8) ∧
    decodeTableWord 24 0xFF0128 = some .getSerialNumber ∧
    decodeTableWord 40 0xFF03340A14 = some (.membranePress [10#8, 20#8]) ∧
    decodeTableWord 48 0xFF0453414243 = some (.serialNumber [0x41#8, 0x42#8, 0x43#8]) ∧
    decodeTableWord 24 0xFF0163 = some (.unhandled 99#8 []) ∧ decodeTableWord 16 0xFF00 = some .empty ∧
    decodeTableWord 8 0xFF = some .idleSync ∧ decodeTableWord 8 0x00 = some .lenZero

/-! ## Ports -/

/-- 10_state.md R43: the codes of the event variants; 14 and 15 are never produced. -/
def Obligations.EventKindsAreAsNumbered : Prop :=
  (∀ (x y : Byte) (l : List Byte),
    eventKind (.unhandled x l) = 0#4 ∧ eventKind (.membranePress x y) = 1#4 ∧ eventKind (.membraneRelease x y) = 2#4 ∧
    eventKind (.switch x y) = 3#4 ∧ eventKind (.sensorChange x y) = 4#4 ∧ eventKind (.version x y) = 5#4 ∧
    eventKind (.onOffSwitch x) = 6#4 ∧ eventKind (.correctMembrane x y) = 7#4 ∧
    eventKind (.correctSwitch x y) = 8#4 ∧ eventKind .correctDone = 9#4 ∧ eventKind .connect = 10#4 ∧
    eventKind .disconnect = 11#4 ∧ eventKind (.serialNumber l) = 12#4 ∧ eventKind .empty = 13#4) ∧
    ∀ e, eventKind e ≠ 14#4 ∧ eventKind e ≠ 15#4

/-- 10_state.md R21: the codes of the three parse states; pattern 3 behaves as `Idle`. -/
def Obligations.ParseStatesHaveTheirCodes : Prop :=
  stCode .idle = 0#2 ∧ stCode .awaitLength = 1#2 ∧ stCode .awaitPayload = 2#2 ∧ stOfCode 3#2 = .idle ∧
    ∀ p, stOfCode (stCode p) = p

/-- 10_state.md R37: the event port in an emitting step, where the spec fixes it, and `ev_valid = 0` otherwise. -/
def Obligations.EventPortShowsTheEvent : Prop :=
  ∀ s : State,
    (∀ e n, s.out = .ev e n → n ≤ s.cap → n ≤ 255 →
      s.eventPort.valid = true ∧ s.eventPort.kind = eventKind e ∧ s.eventPort.len.toNat = n ∧
      (0 < n → s.eventPort.type = s.dec.bufByte 0) ∧ (1 < n → s.eventPort.arg0 = s.dec.bufByte 1) ∧
      (2 < n → s.eventPort.arg1 = s.dec.bufByte 2) ∧ s.eventPort.payload.length = s.cap ∧
      ∀ i, i < n → s.eventPort.payload[i]? = some (s.dec.bufByte i)) ∧
    ((∀ e n, s.out ≠ .ev e n) → s.eventPort.valid = false)

/-- 10_state.md R38: the error port. -/
def Obligations.ErrorPortShowsTheError : Prop :=
  ∀ s : State,
    (∀ b, s.out = .err .frameTooLarge b →
      s.errorPort.valid = true ∧ s.errorPort.code = 1#2 ∧ s.errorPort.len = b) ∧
    ((∀ b, s.out ≠ .err .frameTooLarge b) → noError s) ∧ s.errorPort.code ≠ 2#2 ∧ s.errorPort.code ≠ 3#2
end

