-- ==== Sys2Proof/Laws/Memory.lean ====
section
/-!
SUPPORT. The payload buffer: reading after writing, and that writing keeps the canonical form and the bound
(20_memory.md R52, R63).
-/
namespace Sys2Proof.Machine

/-- A read of the byte just written gives the byte written. -/
@[simp] theorem Memory.read_write_same (m : Memory) (a : Nat) (v : Byte) : (m.write a v).read a = some v := by
  induction m with
  | nil => simp [Memory.write, Memory.read]
  | cons c rest ih =>
    obtain ⟨k, w⟩ := c
    simp only [Memory.write]
    split
    · simp [Memory.read]
    · split
      · simp [Memory.read]
      · rename_i _ hne
        simp [Memory.read, Ne.symm hne, ih]

/-- A write leaves every other byte as it was. -/
theorem Memory.read_write_other (m : Memory) {a c : Nat} (v : Byte) (h : c ≠ a) : (m.write a v).read c = m.read c := by
  induction m with
  | nil => simp [Memory.write, Memory.read, Ne.symm h]
  | cons d rest ih =>
    obtain ⟨k, w⟩ := d
    simp only [Memory.write]
    split
    · simp [Memory.read, Ne.symm h]
    · split
      · rename_i _ heq
        subst heq
        simp [Memory.read, Ne.symm h]
      · simp only [Memory.read, ih]

/-- The two together. -/
theorem Memory.read_write (m : Memory) (a c : Nat) (v : Byte) :
    (m.write a v).read c = if c = a then some v else m.read c := by
  split
  · rename_i h; subst h; simp
  · rename_i h; exact m.read_write_other v h

/-- Rising from `a` gives rising from anything below. -/
theorem Memory.risingFrom_mono {a c : Nat} (h : c ≤ a) : ∀ m : Memory, m.risingFrom a = true → m.risingFrom c = true
  | [], _ => rfl
  | (k, _) :: rest, hm => by
    simp only [Memory.risingFrom, Bool.and_eq_true, decide_eq_true_eq] at hm ⊢
    exact ⟨by omega, hm.2⟩

/-- A write above the bound keeps rising from it. -/
theorem Memory.risingFrom_write {a c : Nat} (v : Byte) (hc : c < a) :
    ∀ {m : Memory}, m.risingFrom c = true → (m.write a v).risingFrom c = true := by
  intro m
  induction m generalizing c with
  | nil => intro _; simp [Memory.write, Memory.risingFrom, hc]
  | cons d rest ih =>
    obtain ⟨k, w⟩ := d
    intro hm
    simp only [Memory.risingFrom, Bool.and_eq_true, decide_eq_true_eq] at hm
    simp only [Memory.write]
    split
    · rename_i hak
      simp [Memory.risingFrom, hc, hak, hm.2]
    · split
      · rename_i _ hak
        subst hak
        simp [Memory.risingFrom, hc, hm.2]
      · have hka : k < a := by omega
        simp [Memory.risingFrom, hm.1, ih hka hm.2]

/-- A write keeps the canonical form. -/
theorem Memory.wf_write {m : Memory} (a : Nat) (v : Byte) (h : m.wf = true) : (m.write a v).wf = true := by
  cases m with
  | nil => rfl
  | cons d rest =>
    obtain ⟨k, w⟩ := d
    simp only [Memory.wf] at h
    simp only [Memory.write]
    split
    · rename_i hak
      simp [Memory.wf, Memory.risingFrom, hak, h]
    · split
      · rename_i _ hak
        subst hak
        simpa [Memory.wf] using h
      · have hka : k < a := by omega
        simpa [Memory.wf] using Memory.risingFrom_write v hka h

/-- A write inside the bound keeps the bound. -/
theorem Memory.within_write {cap : Nat} {m : Memory} {a : Nat} (v : Byte) (ha : a < cap) (h : m.within cap = true) :
    (m.write a v).within cap = true := by
  induction m with
  | nil => simp [Memory.write, Memory.within, ha]
  | cons d rest ih =>
    obtain ⟨k, w⟩ := d
    simp only [Memory.within, Bool.and_eq_true, decide_eq_true_eq] at h
    simp only [Memory.write]
    split
    · simp [Memory.within, ha, h.1, h.2]
    · split
      · simp [Memory.within, ha, h.2]
      · simp [Memory.within, h.1, ih h.2]

/-- The buffer after reset has the canonical form. -/
theorem reset_buf_wf : DecoderState.reset.buf.wf = true := rfl

end Sys2Proof.Machine
end

