-- ==== Sys2Proof/Laws/State.lean ====
section
/-!
SUPPORT. What each named update of the state does to each field: one lemma a field and update, true by rfl, so that no
later proof unfolds a record update.
-/
namespace Sys2Proof.Machine

@[simp] theorem enter_cap (p : ParseState) (s : State) : (s.enter p).cap = s.cap := rfl
@[simp] theorem enter_out (p : ParseState) (s : State) : (s.enter p).out = s.out := rfl
@[simp] theorem enter_enc (p : ParseState) (s : State) : (s.enter p).enc = s.enc := rfl
@[simp] theorem enter_tx (p : ParseState) (s : State) : (s.enter p).tx = s.tx := rfl
@[simp] theorem enter_inputs (p : ParseState) (s : State) : (s.enter p).inputs = s.inputs := rfl
@[simp] theorem enter_draws (p : ParseState) (s : State) : (s.enter p).draws = s.draws := rfl
@[simp] theorem enter_dec_st (p : ParseState) (s : State) : (s.enter p).dec.st = p := rfl
@[simp] theorem enter_dec_expected (p : ParseState) (s : State) : (s.enter p).dec.expected = s.dec.expected := rfl
@[simp] theorem enter_dec_received (p : ParseState) (s : State) : (s.enter p).dec.received = s.dec.received := rfl
@[simp] theorem enter_dec_buf (p : ParseState) (s : State) : (s.enter p).dec.buf = s.dec.buf := rfl

@[simp] theorem loadLength_cap (b : Byte) (s : State) : (s.loadLength b).cap = s.cap := rfl
@[simp] theorem loadLength_out (b : Byte) (s : State) : (s.loadLength b).out = s.out := rfl
@[simp] theorem loadLength_enc (b : Byte) (s : State) : (s.loadLength b).enc = s.enc := rfl
@[simp] theorem loadLength_tx (b : Byte) (s : State) : (s.loadLength b).tx = s.tx := rfl
@[simp] theorem loadLength_inputs (b : Byte) (s : State) : (s.loadLength b).inputs = s.inputs := rfl
@[simp] theorem loadLength_draws (b : Byte) (s : State) : (s.loadLength b).draws = s.draws := rfl
@[simp] theorem loadLength_dec_st (b : Byte) (s : State) : (s.loadLength b).dec.st = s.dec.st := rfl
@[simp] theorem loadLength_dec_expected (b : Byte) (s : State) : (s.loadLength b).dec.expected = b := rfl
@[simp] theorem loadLength_dec_received (b : Byte) (s : State) : (s.loadLength b).dec.received = 0#8 := rfl
@[simp] theorem loadLength_dec_buf (b : Byte) (s : State) : (s.loadLength b).dec.buf = s.dec.buf := rfl

@[simp] theorem pushByte_cap (b : Byte) (s : State) : (s.pushByte b).cap = s.cap := rfl
@[simp] theorem pushByte_out (b : Byte) (s : State) : (s.pushByte b).out = s.out := rfl
@[simp] theorem pushByte_enc (b : Byte) (s : State) : (s.pushByte b).enc = s.enc := rfl
@[simp] theorem pushByte_tx (b : Byte) (s : State) : (s.pushByte b).tx = s.tx := rfl
@[simp] theorem pushByte_inputs (b : Byte) (s : State) : (s.pushByte b).inputs = s.inputs := rfl
@[simp] theorem pushByte_draws (b : Byte) (s : State) : (s.pushByte b).draws = s.draws := rfl
@[simp] theorem pushByte_dec_st (b : Byte) (s : State) : (s.pushByte b).dec.st = s.dec.st := rfl
@[simp] theorem pushByte_dec_expected (b : Byte) (s : State) : (s.pushByte b).dec.expected = s.dec.expected := rfl
@[simp] theorem pushByte_dec_received (b : Byte) (s : State) : (s.pushByte b).dec.received = s.dec.received + 1#8 := rfl
@[simp] theorem pushByte_dec_buf (b : Byte) (s : State) : (s.pushByte b).dec.buf = s.dec.buf.write s.dec.received.toNat b := rfl

@[simp] theorem emit_cap (o : Out) (s : State) : (s.emit o).cap = s.cap := rfl
@[simp] theorem emit_out (o : Out) (s : State) : (s.emit o).out = o := rfl
@[simp] theorem emit_enc (o : Out) (s : State) : (s.emit o).enc = s.enc := rfl
@[simp] theorem emit_tx (o : Out) (s : State) : (s.emit o).tx = s.tx := rfl
@[simp] theorem emit_inputs (o : Out) (s : State) : (s.emit o).inputs = s.inputs := rfl
@[simp] theorem emit_draws (o : Out) (s : State) : (s.emit o).draws = s.draws := rfl
@[simp] theorem emit_dec (o : Out) (s : State) : (s.emit o).dec = s.dec := rfl

@[simp] theorem presentFrame_cap (frame : List Byte) (s : State) : (s.presentFrame frame).cap = s.cap := rfl
@[simp] theorem presentFrame_out (frame : List Byte) (s : State) : (s.presentFrame frame).out = s.out := rfl
@[simp] theorem presentFrame_enc (frame : List Byte) (s : State) : (s.presentFrame frame).enc = EncoderPort.ofFrame frame := rfl
@[simp] theorem presentFrame_tx (frame : List Byte) (s : State) : (s.presentFrame frame).tx = s.tx ++ frame := rfl
@[simp] theorem presentFrame_inputs (frame : List Byte) (s : State) : (s.presentFrame frame).inputs = s.inputs := rfl
@[simp] theorem presentFrame_draws (frame : List Byte) (s : State) : (s.presentFrame frame).draws = s.draws := rfl
@[simp] theorem presentFrame_dec (frame : List Byte) (s : State) : (s.presentFrame frame).dec = s.dec := rfl

@[simp] theorem refuseOpcode_cap (s : State) : s.refuseOpcode.cap = s.cap := rfl
@[simp] theorem refuseOpcode_out (s : State) : s.refuseOpcode.out = s.out := rfl
@[simp] theorem refuseOpcode_enc (s : State) : s.refuseOpcode.enc = EncoderPort.nothing := rfl
@[simp] theorem refuseOpcode_tx (s : State) : s.refuseOpcode.tx = s.tx := rfl
@[simp] theorem refuseOpcode_inputs (s : State) : s.refuseOpcode.inputs = s.inputs := rfl
@[simp] theorem refuseOpcode_draws (s : State) : s.refuseOpcode.draws = s.draws := rfl
@[simp] theorem refuseOpcode_dec (s : State) : s.refuseOpcode.dec = s.dec := rfl

@[simp] theorem advance_cap (rest : List Input) (s : State) : (s.advance rest).cap = s.cap := rfl
@[simp] theorem advance_out (rest : List Input) (s : State) : (s.advance rest).out = .none := rfl
@[simp] theorem advance_enc (rest : List Input) (s : State) : (s.advance rest).enc = s.enc := rfl
@[simp] theorem advance_tx (rest : List Input) (s : State) : (s.advance rest).tx = s.tx := rfl
@[simp] theorem advance_inputs (rest : List Input) (s : State) : (s.advance rest).inputs = rest := rfl
@[simp] theorem advance_draws (rest : List Input) (s : State) : (s.advance rest).draws = s.draws + 1 := rfl
@[simp] theorem advance_dec (rest : List Input) (s : State) : (s.advance rest).dec = s.dec := rfl

@[simp] theorem applyReset_cap (s : State) : s.applyReset.cap = s.cap := rfl
@[simp] theorem applyReset_out (s : State) : s.applyReset.out = .none := rfl
@[simp] theorem applyReset_enc (s : State) : s.applyReset.enc = s.enc := rfl
@[simp] theorem applyReset_tx (s : State) : s.applyReset.tx = s.tx := rfl
@[simp] theorem applyReset_inputs (s : State) : s.applyReset.inputs = s.inputs := rfl
@[simp] theorem applyReset_draws (s : State) : s.applyReset.draws = s.draws := rfl
@[simp] theorem applyReset_dec (s : State) : s.applyReset.dec = DecoderState.reset := rfl

@[simp] theorem present_cap (i : Input) (s : State) : (s.present i).cap = s.cap := rfl
@[simp] theorem present_out (i : Input) (s : State) : (s.present i).out = s.out := rfl
@[simp] theorem present_enc (i : Input) (s : State) : (s.present i).enc = s.enc := rfl
@[simp] theorem present_tx (i : Input) (s : State) : (s.present i).tx = s.tx := rfl
@[simp] theorem present_inputs (i : Input) (s : State) : (s.present i).inputs = i :: s.inputs := rfl
@[simp] theorem present_draws (i : Input) (s : State) : (s.present i).draws = s.draws := rfl
@[simp] theorem present_dec (i : Input) (s : State) : (s.present i).dec = s.dec := rfl

end Sys2Proof.Machine
end

