-- ==== Sys2Proof/Laws/Ops.lean ====
section
/-!
SUPPORT. For each shared operation, once, everything it can do.
-/
namespace Sys2Proof.Machine

/-- Continuing a next state. -/
@[simp] theorem onNext_next (s : State) (f : State → Result) : onNext (.next s) f = f s := rfl

/-- A continued result is a next state only through a next state. -/
theorem onNext_eq_next {r : Result} {f : State → Result} {t : State} (h : onNext r f = .next t) :
    ∃ s, r = .next s ∧ f s = .next t := by
  cases r with
  | next s => exact ⟨s, rfl, h⟩
  | fault e => cases h
  | refused e => cases h

/-- The store of a payload byte below the capacity (20_memory.md R51, R52). -/
theorem storePayloadByte_of_lt {s : State} (b : Byte) (h : s.dec.received.toNat < s.cap) :
    storePayloadByte b s = .next (s.pushByte b) := by
  simp [storePayloadByte, h]

/-- The store of a payload byte answers next in one way only. -/
theorem storePayloadByte_eq_next {s t : State} {b : Byte} (h : storePayloadByte b s = .next t) :
    s.dec.received.toNat < s.cap ∧ t = s.pushByte b := by
  unfold storePayloadByte at h
  split at h
  · rename_i hlt
    exact ⟨hlt, by injection h with h'; exact h'.symm⟩
  · cases h

/-- What one buffer byte is after a payload byte is stored. -/
theorem pushByte_bufByte (s : State) (b : Byte) (i : Nat) :
    (s.pushByte b).dec.bufByte i = if i = s.dec.received.toNat then b else s.dec.bufByte i := by
  simp only [DecoderState.bufByte, pushByte_dec_buf, Memory.read_write]
  split <;> rfl

/-- A payload has the length asked for. -/
@[simp] theorem payload_length (d : DecoderState) (n : Nat) : (d.payload n).length = n := by
  simp [DecoderState.payload]

/-- The byte at an offset of a payload. -/
theorem payload_getElem? (d : DecoderState) (n i : Nat) :
    (d.payload n)[i]? = if i < n then some (d.bufByte i) else none := by
  simp only [DecoderState.payload, List.getElem?_map]
  split <;> simp_all

/-- Raising the error, field by field (60_exceptions.md R205). -/
theorem raiseFrameTooLarge_eq (b : Byte) (s : State) :
    raiseFrameTooLarge b s = { s with dec := { s.dec with st := .idle }, out := .err .frameTooLarge b } := rfl

/-- The hand-over to the event decoder runs the instruction the payload selects (41_event_dispatch.md R140). -/
theorem dispatchEvent_eq_exec (p : List Byte) (s : State) : dispatchEvent p s = exec (selectEvent p) s := by
  cases p with
  | nil => rfl
  | cons t args =>
    simp only [dispatchEvent, selectEvent]
    cases eventOfCode t with
    | none => rfl
    | some e => cases e <;> rfl

/-- The hand-over to the event decoder always emits an event of the payload's length and writes nothing else. -/
theorem dispatchEvent_emits (p : List Byte) (s : State) :
    ∃ e : Event, dispatchEvent p s = .next (s.emit (.ev e p.length)) := by
  cases p with
  | nil => exact ⟨.empty, rfl⟩
  | cons t args =>
    simp only [dispatchEvent]
    cases eventOfCode t with
    | none => exact ⟨_, rfl⟩
    | some e => cases e <;> exact ⟨_, rfl⟩

/-- A step on a received byte that selects a byte-step. -/
theorem runByte_of_select {s : State} {b : Byte} {i : Instr}
    (h : selectByte s.cap s.dec.st s.dec.expected s.dec.received b = some i) : runByte b s = exec i s := by
  simp [runByte, h]

/-- A step on a command the opcode names. -/
theorem runCommand_of_select {op a0 a1 a2 : Byte} {s : State} {i : Instr} (h : selectCommand op a0 a1 a2 = some i) :
    runCommand op a0 a1 a2 s = exec i s := by
  simp [runCommand, h]

/-- The command table read back: an opcode found names that command. -/
theorem commandOfOpcode_some {op : Byte} {c : CommandName} (h : commandOfOpcode op = some c) : opcode c = op := by
  simpa using List.find?_some h

/-- The type-code table read back: a code found names that variant. -/
theorem eventOfCode_some {t : Byte} {e : EventName} (h : eventOfCode t = some e) : typeCode e = t := by
  simpa using List.find?_some h

/-- Every variant is found by its type code. -/
@[simp] theorem eventOfCode_typeCode (e : EventName) : eventOfCode (typeCode e) = some e := by
  cases e <;> rfl

/-- Every command is found by its opcode. -/
@[simp] theorem commandOfOpcode_opcode (c : CommandName) : commandOfOpcode (opcode c) = some c := by
  cases c <;> rfl

end Sys2Proof.Machine
end

