-- ==== Sys2Proof/Laws/Step.lean ====
section
/-!
SUPPORT. What the selections, the families of instructions and a step can do, each said once.
-/
namespace Sys2Proof.Machine

/-! ## The step table (40_decoder_framing.md R110), row by row -/

theorem selectByte_idle_sync (cap : Nat) (e r : Byte) : selectByte cap .idle e r sync = some .idleSync := by
  simp [selectByte, isSync]

theorem selectByte_idle_skip (cap : Nat) (e r : Byte) {b : Byte} (h : b ≠ sync) :
    selectByte cap .idle e r b = some (.idleSkip b) := by
  simp [selectByte, isSync, h]

theorem selectByte_len_zero (cap : Nat) (e r : Byte) : selectByte cap .awaitLength e r 0#8 = some .lenZero := by
  simp [selectByte, isZeroLen]

/-- A byte of a positive value is not the zero byte. -/
theorem ne_zero_of_toNat_pos {b : Byte} (h : 0 < b.toNat) : b ≠ 0#8 := by
  rintro rfl
  simp at h

/-- A byte that is not the zero byte has a positive value. -/
theorem toNat_pos_of_ne_zero {b : Byte} (h : b ≠ 0#8) : 0 < b.toNat := by
  rcases Nat.eq_zero_or_pos b.toNat with h' | h'
  · exact absurd (BitVec.eq_of_toNat_eq (by simpa using h')) h
  · exact h'

theorem selectByte_len_accept {cap : Nat} (e r : Byte) {b : Byte} (h1 : 1 ≤ b.toNat) (h2 : b.toNat ≤ cap) :
    selectByte cap .awaitLength e r b = some (.lenAccept b) := by
  simp [selectByte, isZeroLen, exceedsCap, ne_zero_of_toNat_pos h1, Nat.not_lt.mpr h2]

theorem selectByte_len_oversize {cap : Nat} (e r : Byte) {b : Byte} (h : cap < b.toNat) :
    selectByte cap .awaitLength e r b = some (.lenOversize b) := by
  simp [selectByte, isZeroLen, exceedsCap, ne_zero_of_toNat_pos (Nat.zero_lt_of_lt h), h]

theorem selectByte_pay_store (cap : Nat) {e r : Byte} (b : Byte) (h : r.toNat + 1 < e.toNat) :
    selectByte cap .awaitPayload e r b = some (.payStore b) := by
  simp [selectByte, moreToCome, h]

theorem selectByte_pay_complete (cap : Nat) {e r : Byte} (b : Byte) (h : r.toNat + 1 = e.toNat) :
    selectByte cap .awaitPayload e r b = some (.payComplete b) := by
  simp [selectByte, moreToCome, completes, h]

/-- The step table read back: which row, from the instruction selected. -/
theorem selectByte_cases {cap : Nat} {st : ParseState} {e r b : Byte} {i : Instr}
    (h : selectByte cap st e r b = some i) :
    (st = .idle ∧ b = sync ∧ i = .idleSync) ∨ (st = .idle ∧ b ≠ sync ∧ i = .idleSkip b) ∨
      (st = .awaitLength ∧ b = 0#8 ∧ i = .lenZero) ∨
      (st = .awaitLength ∧ 1 ≤ b.toNat ∧ b.toNat ≤ cap ∧ i = .lenAccept b) ∨
      (st = .awaitLength ∧ cap < b.toNat ∧ i = .lenOversize b) ∨
      (st = .awaitPayload ∧ r.toNat + 1 < e.toNat ∧ i = .payStore b) ∨
      (st = .awaitPayload ∧ r.toNat + 1 = e.toNat ∧ i = .payComplete b) := by
  cases st with
  | idle =>
    by_cases hb : b = sync
    · subst hb
      rw [selectByte_idle_sync] at h
      cases h
      simp
    · rw [selectByte_idle_skip cap e r hb] at h
      cases h
      simp [hb]
  | awaitLength =>
    by_cases hz : b = 0#8
    · subst hz
      rw [selectByte_len_zero] at h
      cases h
      simp
    · have hp := toNat_pos_of_ne_zero hz
      rcases Nat.lt_or_ge cap b.toNat with hc | hc
      · rw [selectByte_len_oversize e r hc] at h
        cases h
        simp [hc]
      · rw [selectByte_len_accept e r hp hc] at h
        cases h
        exact Or.inr (Or.inr (Or.inr (Or.inl ⟨rfl, hp, hc, rfl⟩)))
  | awaitPayload =>
    rcases Nat.lt_trichotomy (r.toNat + 1) e.toNat with hl | hl | hl
    · rw [selectByte_pay_store cap b hl] at h
      cases h
      simp [hl]
    · rw [selectByte_pay_complete cap b hl] at h
      cases h
      simp [hl]
    · simp [selectByte, moreToCome, completes, Nat.not_lt.mpr (Nat.le_of_lt hl), Nat.ne_of_gt hl] at h

/-! ## The families -/

/-- Every command presents its encoding and does nothing else (42_command_encoder.md R190). -/
theorem exec_command {i : Instr} (h : i.family = .command) (s : State) :
    exec i s = .next (s.presentFrame (encode i)) := by
  cases i <;> first | rfl | cases h

/-- Every event variant emits an event and does nothing else (41_event_dispatch.md R160). -/
theorem exec_event {i : Instr} (h : i.family = .event) (s : State) :
    ∃ e n, exec i s = .next (s.emit (.ev e n)) := by
  cases i <;> first | exact ⟨_, _, rfl⟩ | cases h

/-- A payload byte stored in the middle of a payload (40_decoder_framing.md R116). -/
theorem exec_payStore {s : State} (b : Byte) (h : s.dec.received.toNat < s.cap) :
    exec (.payStore b) s = .next (((s.pushByte b).enter .awaitPayload).emit .none) := by
  simp only [exec, execPayStore, storePayloadByte_of_lt b h, onNext_next]

/-- The completing byte is stored and the payload's event variant runs (40_decoder_framing.md R117). -/
theorem exec_payComplete {s : State} (b : Byte) (h : s.dec.received.toNat < s.cap) :
    exec (.payComplete b) s =
      exec (selectEvent ((s.pushByte b).dec.payload s.dec.expected.toNat)) ((s.pushByte b).enter .idle) := by
  have hd : exec (.payComplete b) s =
      dispatchEvent ((s.pushByte b).dec.payload s.dec.expected.toNat) ((s.pushByte b).enter .idle) := by
    simp only [exec, execPayComplete, storePayloadByte_of_lt b h, onNext_next, pushByte_dec_expected]
  rw [hd, dispatchEvent_eq_exec]

/-- A command the port names is one of the commands. -/
theorem selectCommand_some {op a0 a1 a2 : Byte} {i : Instr} (h : selectCommand op a0 a1 a2 = some i) :
    ∃ c, opcode c = op ∧ i = commandWithArgs c a0 a1 a2 ∧ i.family = .command := by
  obtain ⟨c, hc, rfl⟩ := Option.map_eq_some_iff.mp h
  exact ⟨c, commandOfOpcode_some hc, rfl, by cases c <;> rfl⟩

/-! ## The step, by its input -/

theorem step_none {s : State} (h : s.inputs = []) : step s = .next (s.advance []) := by simp [step, h]

theorem step_rx {s : State} {b : Byte} {rest : List Input} (h : s.inputs = .rx b :: rest) :
    step s = runByte b (s.advance rest) := by simp [step, h]

theorem step_cmd {s : State} {op a0 a1 a2 : Byte} {rest : List Input} (h : s.inputs = .cmd op a0 a1 a2 :: rest) :
    step s = runCommand op a0 a1 a2 (s.advance rest) := by simp [step, h]

theorem step_reset {s : State} {rest : List Input} (h : s.inputs = .reset :: rest) :
    step s = .next (s.advance rest).applyReset := by simp [step, h]

/-- A byte's step answers next only through the byte-step it selects. -/
theorem runByte_eq_next {s t : State} {b : Byte} (h : runByte b s = .next t) :
    ∃ i, selectByte s.cap s.dec.st s.dec.expected s.dec.received b = some i ∧ exec i s = .next t := by
  unfold runByte at h
  split at h
  · rename_i i hi
    exact ⟨i, hi, h⟩
  · cases h

/-- A command's step always answers next: the frame presented, or the opcode refused at the port. -/
theorem runCommand_cases (op a0 a1 a2 : Byte) (s : State) :
    (∃ i, selectCommand op a0 a1 a2 = some i ∧ runCommand op a0 a1 a2 s = .next (s.presentFrame (encode i))) ∨
      (selectCommand op a0 a1 a2 = none ∧ runCommand op a0 a1 a2 s = .next s.refuseOpcode) := by
  unfold runCommand
  cases h : selectCommand op a0 a1 a2 with
  | none => exact Or.inr ⟨rfl, rfl⟩
  | some i =>
    obtain ⟨_, _, _, hf⟩ := selectCommand_some h
    exact Or.inl ⟨i, rfl, exec_command hf s⟩

end Sys2Proof.Machine
end

