-- ==== Sys2Proof/Laws/Feed.lean ====
section
/-!
SUPPORT. Feeding one byte and then the rest (40_decoder_framing.md R118).
-/
namespace Sys2Proof.Machine

@[simp] theorem feed_nil (s : State) : feed s [] = .next (s, []) := rfl

/-- Feeding goes on after a byte whose step answers next. -/
theorem feed_cons_next {s t u : State} {b : Byte} {rest : List Byte} {os : List Out}
    (h : step (s.present (.rx b)) = .next t) (h' : feed t rest = .next (u, os)) :
    feed s (b :: rest) = .next (u, t.out.toList ++ os) := by
  simp only [feed, h, h']

/-- Feeding that answers next went through the byte's step. -/
theorem feed_cons_eq_next {s u : State} {b : Byte} {rest : List Byte} {os : List Out}
    (h : feed s (b :: rest) = .next (u, os)) :
    ∃ t os', step (s.present (.rx b)) = .next t ∧ feed t rest = .next (u, os') ∧ os = t.out.toList ++ os' := by
  simp only [feed] at h
  split at h
  · cases h
  · cases h
  · rename_i t ht
    split at h
    · cases h
    · cases h
    · rename_i v os' hv
      cases h
      exact ⟨t, os', ht, hv, rfl⟩

/-- A step has at most one output. -/
theorem toList_length (o : Out) : o.toList.length ≤ 1 := by
  cases o <;> simp [Out.toList]

end Sys2Proof.Machine
end

