-- ==== Sys2Proof/Laws/PerInstr.lean ====
section
/-!
SUPPORT. The family `EncodedLength`: every well-formed instruction of an instance encodes to at least one byte, and to
no more than the longest frame: two bytes and a payload of `cap` bytes on the receive side, six bytes on the transmit
side (30_encoding.md R80, R90).
-/
namespace Sys2Proof.Laws

/-- The bounds on the length of an instruction's encoding. -/
def EncodedLength.Statement (i : Instr) : Prop :=
  ∀ cap, 1 ≤ cap → i.wellFormed cap = true → 1 ≤ (encode i).length ∧ (encode i).length ≤ max 6 (cap + 2)

/-- A payload frame is two bytes longer than its payload. -/
theorem payloadFrame_length (p : List Byte) : (payloadFrame p).length = p.length + 2 := by
  simp [payloadFrame]

/-- The bounds for an event variant with these payload bytes after its type code. -/
theorem payloadFrame_bounds (cap : Nat) (t : Byte) (args : List Byte) (h : payloadFits cap args = true) :
    1 ≤ (payloadFrame (t :: args)).length ∧ (payloadFrame (t :: args)).length ≤ max 6 (cap + 2) := by
  simp only [payloadFits, decide_eq_true_eq] at h
  rw [payloadFrame_length, List.length_cons]
  omega

/-- The bounds for a command. -/
theorem commandFrame_bounds (cap : Nat) (c : CommandName) (args : List Byte) (h : args.length ≤ 3) :
    1 ≤ (commandFrame c args).length ∧ (commandFrame c args).length ≤ max 6 (cap + 2) := by
  simp only [commandFrame, List.length_append, List.length_cons, List.length_nil]
  omega

theorem EncodedLength.getVersion : EncodedLength.Statement (.getVersion) :=
  fun cap _ _ => commandFrame_bounds cap .getVersion [] (by simp)

theorem EncodedLength.setLed (num state : Byte) : EncodedLength.Statement (.setLed num state) :=
  fun cap _ _ => commandFrame_bounds cap .setLed [num, state] (by simp)

theorem EncodedLength.scan : EncodedLength.Statement (.scan) :=
  fun cap _ _ => commandFrame_bounds cap .scan [] (by simp)

theorem EncodedLength.setTone (freq dur vol : Byte) : EncodedLength.Statement (.setTone freq dur vol) :=
  fun cap _ _ => commandFrame_bounds cap .setTone [freq, dur, vol] (by simp)

theorem EncodedLength.getEvent : EncodedLength.Statement (.getEvent) :=
  fun cap _ _ => commandFrame_bounds cap .getEvent [] (by simp)

theorem EncodedLength.init : EncodedLength.Statement (.init) :=
  fun cap _ _ => commandFrame_bounds cap .init [] (by simp)

theorem EncodedLength.eepromRead : EncodedLength.Statement (.eepromRead) :=
  fun cap _ _ => commandFrame_bounds cap .eepromRead [] (by simp)

theorem EncodedLength.eepromWrite : EncodedLength.Statement (.eepromWrite) :=
  fun cap _ _ => commandFrame_bounds cap .eepromWrite [] (by simp)

theorem EncodedLength.getOnOff : EncodedLength.Statement (.getOnOff) :=
  fun cap _ _ => commandFrame_bounds cap .getOnOff [] (by simp)

theorem EncodedLength.getCorrect : EncodedLength.Statement (.getCorrect) :=
  fun cap _ _ => commandFrame_bounds cap .getCorrect [] (by simp)

theorem EncodedLength.eepromReadByte : EncodedLength.Statement (.eepromReadByte) :=
  fun cap _ _ => commandFrame_bounds cap .eepromReadByte [] (by simp)

theorem EncodedLength.resetDevice : EncodedLength.Statement (.resetDevice) :=
  fun cap _ _ => commandFrame_bounds cap .resetDevice [] (by simp)

theorem EncodedLength.startAuto : EncodedLength.Statement (.startAuto) :=
  fun cap _ _ => commandFrame_bounds cap .startAuto [] (by simp)

theorem EncodedLength.stopAuto : EncodedLength.Statement (.stopAuto) :=
  fun cap _ _ => commandFrame_bounds cap .stopAuto [] (by simp)

theorem EncodedLength.allLeds : EncodedLength.Statement (.allLeds) :=
  fun cap _ _ => commandFrame_bounds cap .allLeds [] (by simp)

theorem EncodedLength.startOutput : EncodedLength.Statement (.startOutput) :=
  fun cap _ _ => commandFrame_bounds cap .startOutput [] (by simp)

theorem EncodedLength.stopOutput : EncodedLength.Statement (.stopOutput) :=
  fun cap _ _ => commandFrame_bounds cap .stopOutput [] (by simp)

theorem EncodedLength.allSensors : EncodedLength.Statement (.allSensors) :=
  fun cap _ _ => commandFrame_bounds cap .allSensors [] (by simp)

theorem EncodedLength.getSerialNumber : EncodedLength.Statement (.getSerialNumber) :=
  fun cap _ _ => commandFrame_bounds cap .getSerialNumber [] (by simp)

theorem EncodedLength.membranePress (args : List Byte) : EncodedLength.Statement (.membranePress args) :=
  fun cap _ h => payloadFrame_bounds cap (typeCode .membranePress) args h

theorem EncodedLength.membraneRelease (args : List Byte) : EncodedLength.Statement (.membraneRelease args) :=
  fun cap _ h => payloadFrame_bounds cap (typeCode .membraneRelease) args h

theorem EncodedLength.switch (args : List Byte) : EncodedLength.Statement (.switch args) :=
  fun cap _ h => payloadFrame_bounds cap (typeCode .switch) args h

theorem EncodedLength.sensorChange (args : List Byte) : EncodedLength.Statement (.sensorChange args) :=
  fun cap _ h => payloadFrame_bounds cap (typeCode .sensorChange) args h

theorem EncodedLength.version (args : List Byte) : EncodedLength.Statement (.version args) :=
  fun cap _ h => payloadFrame_bounds cap (typeCode .version) args h

theorem EncodedLength.onOffSwitch (args : List Byte) : EncodedLength.Statement (.onOffSwitch args) :=
  fun cap _ h => payloadFrame_bounds cap (typeCode .onOffSwitch) args h

theorem EncodedLength.correctMembrane (args : List Byte) : EncodedLength.Statement (.correctMembrane args) :=
  fun cap _ h => payloadFrame_bounds cap (typeCode .correctMembrane) args h

theorem EncodedLength.correctSwitch (args : List Byte) : EncodedLength.Statement (.correctSwitch args) :=
  fun cap _ h => payloadFrame_bounds cap (typeCode .correctSwitch) args h

theorem EncodedLength.correctDone (args : List Byte) : EncodedLength.Statement (.correctDone args) :=
  fun cap _ h => payloadFrame_bounds cap (typeCode .correctDone) args h

theorem EncodedLength.connect (args : List Byte) : EncodedLength.Statement (.connect args) :=
  fun cap _ h => payloadFrame_bounds cap (typeCode .connect) args h

theorem EncodedLength.disconnect (args : List Byte) : EncodedLength.Statement (.disconnect args) :=
  fun cap _ h => payloadFrame_bounds cap (typeCode .disconnect) args h

theorem EncodedLength.serialNumber (chars : List Byte) : EncodedLength.Statement (.serialNumber chars) :=
  fun cap _ h => payloadFrame_bounds cap (typeCode .serialNumber) chars h

theorem EncodedLength.unhandled (code : Byte) (args : List Byte) : EncodedLength.Statement (.unhandled code args) :=
  fun cap _ h => payloadFrame_bounds cap code args (by
    simp only [Instr.wellFormed, Bool.and_eq_true] at h
    exact h.1)

theorem EncodedLength.empty : EncodedLength.Statement .empty :=
  fun cap _ _ => by simp [encode, payloadFrame]

theorem EncodedLength.idleSkip (b : Byte) : EncodedLength.Statement (.idleSkip b) :=
  fun cap _ _ => by simp [encode]

theorem EncodedLength.idleSync : EncodedLength.Statement (.idleSync) :=
  fun cap _ _ => by simp [encode]

theorem EncodedLength.lenAccept (b : Byte) : EncodedLength.Statement (.lenAccept b) :=
  fun cap _ _ => by simp [encode]

theorem EncodedLength.lenZero : EncodedLength.Statement (.lenZero) :=
  fun cap _ _ => by simp [encode]

theorem EncodedLength.lenOversize (b : Byte) : EncodedLength.Statement (.lenOversize b) :=
  fun cap _ _ => by simp [encode]

theorem EncodedLength.payStore (b : Byte) : EncodedLength.Statement (.payStore b) :=
  fun cap _ _ => by simp [encode]

theorem EncodedLength.payComplete (b : Byte) : EncodedLength.Statement (.payComplete b) :=
  fun cap _ _ => by simp [encode]

end Sys2Proof.Laws
end

