-- ==== Sys2Proof/Tests/Slice0.lean ====
section
/-!
SUPPORT. The model's own tests. Expected values are those of spec/95_test_vectors.md (the vector is named) or written
out from the rule that is named. Then, for every obligation with hypotheses, a witness that meets them all.
-/
namespace Sys2Proof.Tests

open Sys2Proof Sys2Proof.Machine Sys2Proof.Claims

/-! ## Helpers -/

/-- An instance of capacity `cap` in a parse state, with registers, stored bytes and what is presented. -/
def mk (cap : Nat) (st : ParseState) (expected received : Byte) (buf : Memory) (inputs : List Input) : State :=
  { State.resetWith cap with dec := { st := st, expected := expected, received := received, buf := buf },
                             inputs := inputs }

/-- Bytes as the buffer holds them from index 0 on. -/
def cells (bs : List Byte) : Memory := (List.range bs.length).zip bs

/-- A payload that lacks its last byte `b`, which is presented. -/
def lastOf (stored : List Byte) (b : Byte) : State :=
  mk 64 .awaitPayload (BitVec.ofNat 8 (stored.length + 1)) (BitVec.ofNat 8 stored.length) (cells stored) [.rx b]

/-- A command at the raw opcode port after reset. -/
def atPort (op a0 a1 a2 : Byte) : State := mk 64 .idle 0#8 0#8 [] [.cmd op a0 a1 a2]

/-- The decoder of a next state. -/
def decOf : Result → Option DecoderState
  | .next s => some s.dec
  | .fault _ => none
  | .refused _ => none

/-- The output of a next state. -/
def outOf : Result → Option Out
  | .next s => some s.out
  | .fault _ => none
  | .refused _ => none

/-- The transmit stream of a next state. -/
def txOf : Result → Option (List Byte)
  | .next s => some s.tx
  | .fault _ => none
  | .refused _ => none

/-- The encoder's port of a next state. -/
def encOf : Result → Option EncoderPort
  | .next s => some s.enc
  | .fault _ => none
  | .refused _ => none

/-- What was decoded, if bytes were. -/
def read (src : Source) (bs : List Byte) : Option (Instr × List Byte) := (decode src bs).toOption

/-- The outputs of feeding a chunk. -/
def outsOf : FeedResult → Option (List Out)
  | .next (_, os) => some os
  | .fault _ => none
  | .refused _ => none

/-! ## Well-formedness refuses: payloads one byte longer than the capacity (30_encoding.md R83), R87, and the conditions of
40_decoder_framing.md R110 -/

theorem smoke_membranePress_too_long : (Instr.membranePress (List.replicate 64 0#8)).wellFormed 64 = false := by decide
theorem smoke_membraneRelease_too_long :
    (Instr.membraneRelease (List.replicate 64 0#8)).wellFormed 64 = false := by decide
theorem smoke_switch_too_long : (Instr.switch (List.replicate 64 0#8)).wellFormed 64 = false := by decide
theorem smoke_sensorChange_too_long : (Instr.sensorChange (List.replicate 64 0#8)).wellFormed 64 = false := by decide
theorem smoke_version_too_long : (Instr.version (List.replicate 64 0#8)).wellFormed 64 = false := by decide
theorem smoke_onOffSwitch_too_long : (Instr.onOffSwitch (List.replicate 64 0#8)).wellFormed 64 = false := by decide
theorem smoke_correctMembrane_too_long :
    (Instr.correctMembrane (List.replicate 64 0#8)).wellFormed 64 = false := by decide
theorem smoke_correctSwitch_too_long : (Instr.correctSwitch (List.replicate 64 0#8)).wellFormed 64 = false := by decide
theorem smoke_correctDone_too_long : (Instr.correctDone (List.replicate 64 0#8)).wellFormed 64 = false := by decide
theorem smoke_connect_too_long : (Instr.connect (List.replicate 64 0#8)).wellFormed 64 = false := by decide
theorem smoke_disconnect_too_long : (Instr.disconnect (List.replicate 64 0#8)).wellFormed 64 = false := by decide
theorem smoke_serialNumber_too_long : (Instr.serialNumber (List.replicate 64 0#8)).wellFormed 64 = false := by decide
theorem smoke_unhandled_too_long : (Instr.unhandled 99#8 (List.replicate 64 0#8)).wellFormed 64 = false := by decide
theorem smoke_unhandled_known_code : (Instr.unhandled 52#8 []).wellFormed 64 = false := by decide
theorem smoke_idleSkip_sync : (Instr.idleSkip 0xFF#8).wellFormed 64 = false := by decide
theorem smoke_lenAccept_zero : (Instr.lenAccept 0#8).wellFormed 64 = false := by decide
theorem smoke_lenAccept_above : (Instr.lenAccept 65#8).wellFormed 64 = false := by decide
theorem smoke_lenOversize_fits : (Instr.lenOversize 64#8).wellFormed 64 = false := by decide
theorem smoke_longest_payload_fits : (Instr.serialNumber (List.replicate 63 0#8)).wellFormed 64 = true := by decide

/-! ## Decoding words written out from the spec: the frames of T5.1 to T5.23 -/

theorem decode_getVersion : read .command [0xFF#8, 0x01#8, 0x01#8] = some (.getVersion, []) := by decide
theorem decode_scan : read .command [0xFF#8, 0x01#8, 0x03#8] = some (.scan, []) := by decide
theorem decode_getEvent : read .command [0xFF#8, 0x01#8, 0x05#8] = some (.getEvent, []) := by decide
theorem decode_init : read .command [0xFF#8, 0x01#8, 0x06#8] = some (.init, []) := by decide
theorem decode_eepromRead : read .command [0xFF#8, 0x01#8, 0x07#8] = some (.eepromRead, []) := by decide
theorem decode_eepromWrite : read .command [0xFF#8, 0x01#8, 0x08#8] = some (.eepromWrite, []) := by decide
theorem decode_getOnOff : read .command [0xFF#8, 0x01#8, 0x09#8] = some (.getOnOff, []) := by decide
theorem decode_getCorrect : read .command [0xFF#8, 0x01#8, 0x0A#8] = some (.getCorrect, []) := by decide
theorem decode_eepromReadByte : read .command [0xFF#8, 0x01#8, 0x0B#8] = some (.eepromReadByte, []) := by decide
theorem decode_resetDevice : read .command [0xFF#8, 0x01#8, 0x0C#8] = some (.resetDevice, []) := by decide
theorem decode_startAuto : read .command [0xFF#8, 0x01#8, 0x0D#8] = some (.startAuto, []) := by decide
theorem decode_stopAuto : read .command [0xFF#8, 0x01#8, 0x0E#8] = some (.stopAuto, []) := by decide
theorem decode_allLeds : read .command [0xFF#8, 0x01#8, 0x0F#8] = some (.allLeds, []) := by decide
theorem decode_startOutput : read .command [0xFF#8, 0x01#8, 0x10#8] = some (.startOutput, []) := by decide
theorem decode_stopOutput : read .command [0xFF#8, 0x01#8, 0x11#8] = some (.stopOutput, []) := by decide
theorem decode_allSensors : read .command [0xFF#8, 0x01#8, 0x12#8] = some (.allSensors, []) := by decide
theorem decode_getSerialNumber : read .command [0xFF#8, 0x01#8, 0x28#8] = some (.getSerialNumber, []) := by decide
theorem decode_setLed : read .command [0xFF#8, 0x03#8, 0x02#8, 0x01#8, 0x00#8] = some (.setLed 1#8 0#8, []) := by decide
theorem decode_setTone :
    read .command [0xFF#8, 0x04#8, 0x04#8, 0x64#8, 0x05#8, 0x02#8] = some (.setTone 100#8 5#8 2#8, []) := by decide

/-! The frames of T4.1 to T4.16, and T3.11. -/

theorem decode_membranePress : read (.frame 64) [0xFF#8, 0x03#8, 0x34#8, 0x0A#8, 0x14#8] =
    some (.membranePress [0x0A#8, 0x14#8], []) := by decide
theorem decode_membraneRelease : read (.frame 64) [0xFF#8, 0x03#8, 0x35#8, 0x0A#8, 0x14#8] =
    some (.membraneRelease [0x0A#8, 0x14#8], []) := by decide
theorem decode_switch : read (.frame 64) [0xFF#8, 0x03#8, 0x36#8, 0x02#8, 0x01#8] =
    some (.switch [0x02#8, 0x01#8], []) := by decide
theorem decode_sensorChange : read (.frame 64) [0xFF#8, 0x03#8, 0x37#8, 0x01#8, 0x00#8] =
    some (.sensorChange [0x01#8, 0x00#8], []) := by decide
theorem decode_version : read (.frame 64) [0xFF#8, 0x03#8, 0x38#8, 0x02#8, 0x05#8] =
    some (.version [0x02#8, 0x05#8], []) := by decide
theorem decode_onOffSwitch : read (.frame 64) [0xFF#8, 0x02#8, 0x3A#8, 0x01#8] =
    some (.onOffSwitch [0x01#8], []) := by decide
theorem decode_correctMembrane : read (.frame 64) [0xFF#8, 0x03#8, 0x3E#8, 0x03#8, 0x04#8] =
    some (.correctMembrane [0x03#8, 0x04#8], []) := by decide
theorem decode_correctSwitch : read (.frame 64) [0xFF#8, 0x03#8, 0x3F#8, 0x01#8, 0x07#8] =
    some (.correctSwitch [0x01#8, 0x07#8], []) := by decide
theorem decode_correctDone : read (.frame 64) [0xFF#8, 0x01#8, 0x40#8] =
    some (.correctDone [], []) := by decide
theorem decode_connect : read (.frame 64) [0xFF#8, 0x01#8, 0x51#8] =
    some (.connect [], []) := by decide
theorem decode_disconnect : read (.frame 64) [0xFF#8, 0x01#8, 0x52#8] =
    some (.disconnect [], []) := by decide
theorem decode_serialNumber : read (.frame 64) [0xFF#8, 0x04#8, 0x53#8, 0x41#8, 0x42#8, 0x43#8] =
    some (.serialNumber [0x41#8, 0x42#8, 0x43#8], []) := by decide
theorem decode_unhandled : read (.frame 64) [0xFF#8, 0x05#8, 0x00#8, 0x01#8, 0x02#8, 0x03#8, 0x04#8] =
    some (.unhandled 0#8 [1#8, 2#8, 3#8, 4#8], []) := by decide
theorem decode_empty : read (.frame 64) [0xFF#8, 0x00#8] = some (.empty, []) := by decide

/-! The bytes of T2.4, T2.2, T2.9, T2.12, T2.10, T3.2, T3.3. -/

theorem decode_idleSkip : read (.byte 64 .idle 0#8 0#8) [0xFE#8] = some (.idleSkip 0xFE#8, []) := by decide
theorem decode_idleSync : read (.byte 64 .idle 3#8 3#8) [0xFF#8] = some (.idleSync, []) := by decide
theorem decode_lenAccept : read (.byte 64 .awaitLength 0#8 0#8) [0x40#8] = some (.lenAccept 64#8, []) := by decide
theorem decode_lenZero : read (.byte 64 .awaitLength 3#8 3#8) [0x00#8] = some (.lenZero, []) := by decide
theorem decode_lenOversize : read (.byte 64 .awaitLength 0#8 0#8) [0x41#8] = some (.lenOversize 65#8, []) := by decide
theorem decode_payStore : read (.byte 64 .awaitPayload 3#8 1#8) [0xFF#8] = some (.payStore 0xFF#8, []) := by decide
theorem decode_payComplete :
    read (.byte 64 .awaitPayload 3#8 2#8) [0x14#8] = some (.payComplete 0x14#8, []) := by decide

/-! Refused by name. -/

theorem decode_command_without_sync : decode .command [0xFE#8, 1#8, 1#8] = .error .noSync := rfl
theorem decode_unknown_opcode : decode .command [0xFF#8, 1#8, 19#8] = .error (.unknownOpcode 19#8) := rfl
theorem decode_wrong_length : decode .command [0xFF#8, 2#8, 1#8, 0#8] = .error (.wrongLength 2#8) := rfl
theorem decode_truncated : decode .command [0xFF#8, 3#8, 2#8, 1#8] = .error .truncated := rfl
theorem decode_oversized_frame : decode (.frame 64) [0xFF#8, 65#8] = .error (.frameTooLarge 65#8) := rfl
theorem decode_no_row : decode (.byte 64 .awaitPayload 3#8 3#8) [0#8] = .error .cursorPastLength := rfl

/-! ## One step of each command, at the raw opcode port with arguments that are ignored (42_command_encoder.md R192) -/

theorem test_getVersion : txOf (step (atPort 0x01#8 0x11#8 0x22#8 0x33#8)) = some [0xFF#8, 0x01#8, 0x01#8] := by decide
theorem test_scan : txOf (step (atPort 0x03#8 0x11#8 0x22#8 0x33#8)) = some [0xFF#8, 0x01#8, 0x03#8] := by decide
theorem test_getEvent : txOf (step (atPort 0x05#8 0x11#8 0x22#8 0x33#8)) = some [0xFF#8, 0x01#8, 0x05#8] := by decide
theorem test_init : txOf (step (atPort 0x06#8 0x11#8 0x22#8 0x33#8)) = some [0xFF#8, 0x01#8, 0x06#8] := by decide
theorem test_eepromRead : txOf (step (atPort 0x07#8 0x11#8 0x22#8 0x33#8)) = some [0xFF#8, 0x01#8, 0x07#8] := by decide
theorem test_eepromWrite : txOf (step (atPort 0x08#8 0x11#8 0x22#8 0x33#8)) = some [0xFF#8, 0x01#8, 0x08#8] := by decide
theorem test_getOnOff : txOf (step (atPort 0x09#8 0x11#8 0x22#8 0x33#8)) = some [0xFF#8, 0x01#8, 0x09#8] := by decide
theorem test_getCorrect : txOf (step (atPort 0x0A#8 0x11#8 0x22#8 0x33#8)) = some [0xFF#8, 0x01#8, 0x0A#8] := by decide
theorem test_eepromReadByte :
    txOf (step (atPort 0x0B#8 0x11#8 0x22#8 0x33#8)) = some [0xFF#8, 0x01#8, 0x0B#8] := by decide
theorem test_resetDevice : txOf (step (atPort 0x0C#8 0x11#8 0x22#8 0x33#8)) = some [0xFF#8, 0x01#8, 0x0C#8] := by decide
theorem test_startAuto : txOf (step (atPort 0x0D#8 0x11#8 0x22#8 0x33#8)) = some [0xFF#8, 0x01#8, 0x0D#8] := by decide
theorem test_stopAuto : txOf (step (atPort 0x0E#8 0x11#8 0x22#8 0x33#8)) = some [0xFF#8, 0x01#8, 0x0E#8] := by decide
theorem test_allLeds : txOf (step (atPort 0x0F#8 0x11#8 0x22#8 0x33#8)) = some [0xFF#8, 0x01#8, 0x0F#8] := by decide
theorem test_startOutput : txOf (step (atPort 0x10#8 0x11#8 0x22#8 0x33#8)) = some [0xFF#8, 0x01#8, 0x10#8] := by decide
theorem test_stopOutput : txOf (step (atPort 0x11#8 0x11#8 0x22#8 0x33#8)) = some [0xFF#8, 0x01#8, 0x11#8] := by decide
theorem test_allSensors : txOf (step (atPort 0x12#8 0x11#8 0x22#8 0x33#8)) = some [0xFF#8, 0x01#8, 0x12#8] := by decide
theorem test_getSerialNumber :
    txOf (step (atPort 0x28#8 0x11#8 0x22#8 0x33#8)) = some [0xFF#8, 0x01#8, 0x28#8] := by decide
/-- T5.24: the third argument is ignored. -/
theorem test_setLed : encOf (step (atPort 2#8 1#8 0#8 0x77#8)) =
    some { ok := true, len := 5#3, b0 := 0xFF#8, b1 := 3#8, b2 := 2#8, b3 := 1#8, b4 := 0#8, b5 := 0#8 } := by decide
/-- T5.6, T5.8. -/
theorem test_setTone : txOf (step (atPort 4#8 100#8 5#8 2#8)) = some [0xFF#8, 4#8, 4#8, 100#8, 5#8, 2#8] := by decide
theorem test_setTone_not_escaped :
    txOf (step (atPort 4#8 255#8 255#8 255#8)) = some [0xFF#8, 4#8, 4#8, 255#8, 255#8, 255#8] := by decide
/-- T5.25, T5.26. -/
theorem test_refused_opcodes : ∀ op ∈ [0#8, 0x13#8, 0x27#8, 0x29#8, 0x34#8, 0xFF#8],
    encOf (step (atPort op 1#8 2#8 3#8)) = some EncoderPort.nothing ∧ txOf (step (atPort op 1#8 2#8 3#8)) = some [] := by
  decide

/-! ## One completing step for each event variant: T4 -/

/-- T4.1. -/
theorem test_membranePress :
    outOf (step (lastOf [0x34#8, 0x0A#8] 0x14#8)) = some (.ev (.membranePress 10#8 20#8) 3) := by decide
/-- T4.25. -/
theorem test_membranePress_long :
    outOf (step (lastOf [0x34#8, 0x0A#8, 0x14#8, 0x01#8] 0x02#8)) = some (.ev (.membranePress 10#8 20#8) 5) := by decide
/-- T4.2. -/
theorem test_membraneRelease :
    outOf (step (lastOf [0x35#8, 0x0A#8] 0x14#8)) = some (.ev (.membraneRelease 10#8 20#8) 3) := by decide
/-- T4.3. -/
theorem test_switch : outOf (step (lastOf [0x36#8, 0x02#8] 0x01#8)) = some (.ev (.switch 2#8 1#8) 3) := by decide
/-- T4.4. -/
theorem test_sensorChange :
    outOf (step (lastOf [0x37#8, 0x01#8] 0x00#8)) = some (.ev (.sensorChange 1#8 0#8) 3) := by decide
/-- T4.5. -/
theorem test_version : outOf (step (lastOf [0x38#8, 0x02#8] 0x05#8)) = some (.ev (.version 2#8 5#8) 3) := by decide
/-- T4.6. -/
theorem test_onOffSwitch : outOf (step (lastOf [0x3A#8] 0x01#8)) = some (.ev (.onOffSwitch 1#8) 2) := by decide
/-- T4.7. -/
theorem test_correctMembrane :
    outOf (step (lastOf [0x3E#8, 0x03#8] 0x04#8)) = some (.ev (.correctMembrane 3#8 4#8) 3) := by decide
/-- T4.8. -/
theorem test_correctSwitch :
    outOf (step (lastOf [0x3F#8, 0x01#8] 0x07#8)) = some (.ev (.correctSwitch 1#8 7#8) 3) := by decide
/-- T4.9. -/
theorem test_correctDone : outOf (step (lastOf [] 0x40#8)) = some (.ev .correctDone 1) := by decide
/-- T4.24. -/
theorem test_correctDone_long : outOf (step (lastOf [0x40#8, 0xAA#8] 0xBB#8)) = some (.ev .correctDone 3) := by decide
/-- T4.10. -/
theorem test_connect : outOf (step (lastOf [] 0x51#8)) = some (.ev .connect 1) := by decide
/-- T4.11. -/
theorem test_disconnect : outOf (step (lastOf [] 0x52#8)) = some (.ev .disconnect 1) := by decide
/-- T4.14. -/
theorem test_serialNumber :
    outOf (step (lastOf [0x53#8, 0x00#8, 0x80#8] 0xFF#8)) =
      some (.ev (.serialNumber [0x00#8, 0x80#8, 0xFF#8]) 4) := by decide
/-- T4.13. -/
theorem test_serialNumber_empty : outOf (step (lastOf [] 0x53#8)) = some (.ev (.serialNumber []) 1) := by decide
/-- T4.26. -/
theorem test_unhandled :
    outOf (step (lastOf [0x28#8, 0x00#8] 0x00#8)) = some (.ev (.unhandled 40#8 [40#8, 0#8, 0#8]) 3) := by decide
/-- T4.17 to T4.20: the neighbours of the known codes. -/
theorem test_unhandled_neighbours :
    ∀ t ∈ [51#8, 57#8, 59#8, 60#8, 61#8, 65#8, 69#8, 80#8, 84#8, 99#8, 255#8],
      outOf (step (lastOf [] t)) = some (.ev (.unhandled t [t]) 1) := by decide
/-- T2.12, T3.11. -/
theorem test_empty : outOf (step (mk 64 .awaitLength 3#8 3#8 [] [.rx 0#8])) = some (.ev .empty 0) := by decide

/-! ## One step for each byte-step: T2, T3 -/

/-- T2.5. -/
theorem test_idleSkip : decOf (step (mk 64 .idle 3#8 3#8 (cells [0x34#8, 0x0A#8, 0x14#8]) [.rx 0xFE#8])) =
    some { st := .idle, expected := 3#8, received := 3#8, buf := cells [0x34#8, 0x0A#8, 0x14#8] } := by decide
/-- T2.2. -/
theorem test_idleSync : decOf (step (mk 64 .idle 0#8 0#8 [] [.rx 0xFF#8])) =
    some { st := .awaitLength, expected := 0#8, received := 0#8, buf := [] } := by decide
/-- T2.8, T2.9. -/
theorem test_lenAccept : decOf (step (mk 64 .awaitLength 7#8 7#8 [] [.rx 1#8])) =
    some { st := .awaitPayload, expected := 1#8, received := 0#8, buf := [] } := by decide
theorem test_lenAccept_cap : decOf (step (mk 64 .awaitLength 0#8 0#8 [] [.rx 64#8])) =
    some { st := .awaitPayload, expected := 64#8, received := 0#8, buf := [] } := by decide
/-- T2.12. -/
theorem test_lenZero : decOf (step (mk 64 .awaitLength 3#8 3#8 [] [.rx 0#8])) =
    some { st := .idle, expected := 0#8, received := 0#8, buf := [] } := by decide
/-- T2.11, T2.13. -/
theorem test_lenOversize : decOf (step (mk 64 .awaitLength 3#8 3#8 (cells [0x34#8, 0x0A#8, 0x14#8]) [.rx 0xFF#8])) =
    some { st := .idle, expected := 3#8, received := 3#8, buf := cells [0x34#8, 0x0A#8, 0x14#8] } := by decide
theorem test_lenOversize_error :
    outOf (step (mk 64 .awaitLength 0#8 0#8 [] [.rx 0x80#8])) = some (.err .frameTooLarge 128#8) := by decide
/-- T3.2. -/
theorem test_payStore : decOf (step (mk 64 .awaitPayload 3#8 1#8 (cells [0x34#8]) [.rx 0x0A#8])) =
    some { st := .awaitPayload, expected := 3#8, received := 2#8, buf := cells [0x34#8, 0x0A#8] } := by decide
/-- Program P1, step 10: stale bytes stay. -/
theorem test_payComplete : decOf (step (mk 64 .awaitPayload 1#8 0#8 (cells [0x34#8, 0x0A#8, 0x14#8]) [.rx 0x51#8])) =
    some { st := .idle, expected := 1#8, received := 1#8, buf := cells [0x51#8, 0x0A#8, 0x14#8] } := by decide
/-- T4.1 on the port (10_state.md R37): kind, length, type, arguments. -/
theorem test_payComplete_port :
    (match step (lastOf [0x34#8, 0x0A#8] 0x14#8) with
      | .next t => some (t.eventPort.kind, t.eventPort.len, t.eventPort.type, t.eventPort.arg0, t.eventPort.arg1)
      | .fault _ => none
      | .refused _ => none) = some (1#4, 3#8, 0x34#8, 0x0A#8, 0x14#8) := by decide

/-! ## The table's words, placed so that the next step runs them -/

/-- The seventeen command rows without arguments. -/
theorem test_fetch_commands : ∀ op ∈ [1, 3, 5, 6, 7, 8, 9, 10, 11, 12, 13, 14, 15, 16, 17, 18, 40],
    txOf (step (State.reset.withFetchWord 24 (0xFF0100 + op))) = some [0xFF#8, 1#8, BitVec.ofNat 8 op] := by decide
/-- `SetLed` and `SetTone`: the operand bytes above the table's 24 bits are zero. -/
theorem test_fetch_setLed : decodeTableWord 24 0xFF0302 = some (.setLed 0#8 0#8) ∧
    txOf (step (State.reset.withFetchWord 24 0xFF0302)) = some [0xFF#8, 3#8, 2#8, 0#8, 0#8] := by decide
theorem test_fetch_setTone : decodeTableWord 24 0xFF0404 = some (.setTone 0#8 0#8 0#8) ∧
    txOf (step (State.reset.withFetchWord 24 0xFF0404)) = some [0xFF#8, 4#8, 4#8, 0#8, 0#8, 0#8] := by decide
/-- The two-argument event rows with their length left 0: the row's nominal length. -/
theorem test_fetch_two_argument_events :
    ∀ row ∈ [(0x34, Event.membranePress 0#8 0#8), (0x35, .membraneRelease 0#8 0#8), (0x36, .switch 0#8 0#8),
      (0x37, .sensorChange 0#8 0#8), (0x38, .version 0#8 0#8), (0x3E, .correctMembrane 0#8 0#8),
      (0x3F, .correctSwitch 0#8 0#8)],
      outOf (step (State.reset.withFetchWord 24 (0xFF0000 + row.1))) = some (.ev row.2 3) := by decide +kernel
/-- The other event rows. -/
theorem test_fetch_other_events :
    ∀ row ∈ [(0x3A, Event.onOffSwitch 0#8, 2), (0x40, .correctDone, 1), (0x51, .connect, 1), (0x52, .disconnect, 1),
      (0x53, .serialNumber [], 1), (0x63, .unhandled 99#8 [99#8], 1)],
      outOf (step (State.reset.withFetchWord 24 (0xFF0000 + row.1))) = some (.ev row.2.1 row.2.2) := by decide +kernel
theorem test_fetch_empty : outOf (step (State.reset.withFetchWord 16 0xFF00)) = some (.ev .empty 0) := by decide +kernel
theorem test_fetch_idleSync :
    (decOf (step (State.reset.withFetchWord 8 0xFF))).map (·.st) = some .awaitLength := by decide
theorem test_fetch_lenZero : outOf (step (State.reset.withFetchWord 8 0x00)) = some (.ev .empty 0) := by decide
theorem test_fetch_idleSkip : (decOf (step (State.reset.withFetchWord 8 0x41))).map (·.st) = some .idle := by decide

/-! ## Feeding: T3.5 -/

theorem test_feed_resumes_after_an_error :
    outsOf (feed State.reset [0xFF#8, 0xFF#8, 0xFF#8, 2#8, 0x3A#8, 1#8]) =
      some [.err .frameTooLarge 255#8, .ev (.onOffSwitch 1#8) 2] := by decide
/-- T3.13, in part: `FF FF 01 51` loses the frame. -/
theorem test_feed_paired_syncs_lose_the_frame :
    outsOf (feed State.reset [0xFF#8, 0xFF#8, 1#8, 0x51#8]) = some [.err .frameTooLarge 255#8] := by decide

/-! ## Witnesses: concrete states and operands that meet the hypotheses of each obligation, clause by clause -/

/-- In the middle of a payload: two of three bytes stored. -/
def midPayload : State := mk 64 .awaitPayload 3#8 2#8 (cells [0x34#8, 0x0A#8]) [.rx 0x14#8]

/-- An idle instance of this capacity that has decoded a frame before. -/
def idleAt (cap : Nat) : State := mk cap .idle 1#8 1#8 (cells [0x51#8]) []

/-- Waiting for the length byte `b`. -/
def lengthAt (cap : Nat) (b : Byte) : State := mk cap .awaitLength 1#8 1#8 (cells [0x51#8]) [.rx b]

theorem inv_midPayload : midPayload.Inv :=
  ⟨⟨by decide, by decide⟩, ⟨by decide, by decide, by decide⟩, by decide, by decide, fun _ => by decide⟩

theorem inv_idleAt {cap : Nat} (h1 : 1 ≤ cap) (h2 : cap ≤ 255) : (idleAt cap).Inv :=
  ⟨⟨h1, h2⟩, ⟨Nat.le_refl _, h1, fun h => by cases h⟩, rfl,
    by simpa [idleAt, mk, State.resetWith, cells, Memory.within] using Nat.pos_of_ne_zero (Nat.ne_of_gt h1), fun h => by cases h⟩

theorem inv_lengthAt {cap : Nat} (b : Byte) (h1 : 1 ≤ cap) (h2 : cap ≤ 255) : (lengthAt cap b).Inv :=
  ⟨⟨h1, h2⟩, ⟨Nat.le_refl _, h1, fun h => by cases h⟩, rfl,
    by simpa [lengthAt, mk, State.resetWith, cells, Memory.within] using Nat.pos_of_ne_zero (Nat.ne_of_gt h1), fun h => by cases h⟩

/-- A payload of one byte, at the smallest capacity. -/
def shortest (b : Byte) : State := mk 1 .awaitPayload 1#8 0#8 [] [.rx b]

/-- The last byte of the longest payload: index 63 of 64. -/
def longest (code b : Byte) : State :=
  mk 64 .awaitPayload 64#8 63#8 (cells (code :: List.replicate 62 0x41#8)) [.rx b]

theorem completing_shortest (b :
    Byte) : Completing (shortest b) b [] := ⟨rfl, rfl, rfl, by simp [shortest, mk, State.resetWith]⟩

theorem completing_longest (code b : Byte) : Completing (longest code b) b [] :=
  ⟨rfl, rfl, rfl, by simp [longest, mk, State.resetWith]⟩

theorem witness_ResetDiscardsAPartialFrame :
    { midPayload with inputs := [.reset] }.inputs = .reset :: [] ∧ midPayload.dec.st = .awaitPayload := ⟨rfl, rfl⟩

theorem witness_NoInputKeepsTheState : (idleAt 64).inputs = [] := rfl

theorem witness_IdleSkipDiscardsTheByte : ∀ b ∈ [0x00#8, 0xFE#8],
    (mk 64 .idle 0#8 0#8 [] [.rx b]).inputs = .rx b :: [] ∧ (mk 64 .idle 0#8 0#8 [] [.rx b]).dec.st = .idle ∧
      b ≠ 0xFF#8 := by decide

theorem witness_IdleSyncOpensAFrame :
    (mk 64 .idle 0#8 0#8 [] [.rx 0xFF#8]).inputs = .rx 0xFF#8 :: [] ∧
      (mk 64 .idle 0#8 0#8 [] [.rx 0xFF#8]).dec.st = .idle := by decide

/-- The length 1, the length `CAP`, and 255 at the largest capacity. -/
theorem witness_LenAcceptLoadsTheLength : ∀ p ∈ [(1, 1#8), (64, 1#8), (64, 64#8), (255, 255#8)],
    (lengthAt p.1 p.2).inputs = .rx p.2 :: [] ∧ (lengthAt p.1 p.2).dec.st = .awaitLength ∧ 1 ≤ p.2.toNat ∧
      p.2.toNat ≤ (lengthAt p.1 p.2).cap := by decide

theorem witness_LenZeroCompletesAtOnce :
    (lengthAt 64 0#8).inputs = .rx 0#8 :: [] ∧ (lengthAt 64 0#8).dec.st = .awaitLength := by decide

/-- One above the capacity, and 255. -/
theorem witness_LenOversizeRaisesFrameTooLarge : ∀ p ∈ [(1, 2#8), (64, 65#8), (64, 255#8), (254, 255#8)],
    (lengthAt p.1 p.2).inputs = .rx p.2 :: [] ∧ (lengthAt p.1 p.2).dec.st = .awaitLength ∧
      (lengthAt p.1 p.2).cap < p.2.toNat := by decide

/-- The last index of the buffer; then the first byte of a payload of two. -/
theorem witness_PayStoreStoresOneByte :
    (longest 0x53#8 0#8).dec.received.toNat < (longest 0x53#8 0#8).cap ∧
      (mk 64 .awaitPayload 2#8 0#8 [] [.rx 7#8]).inputs = .rx 7#8 :: [] ∧
      (mk 64 .awaitPayload 2#8 0#8 [] [.rx 7#8]).dec.st = .awaitPayload ∧
      (mk 64 .awaitPayload 2#8 0#8 [] [.rx 7#8]).dec.received.toNat + 1 <
        (mk 64 .awaitPayload 2#8 0#8 [] [.rx 7#8]).dec.expected.toNat := by decide

theorem witness_PayCompleteEmitsTheEvent :
    (shortest 0x51#8).dec.received.toNat < (shortest 0x51#8).cap ∧ Completing (shortest 0x51#8) 0x51#8 [] ∧
      Completing (longest 0x53#8 0x41#8) 0x41#8 [] :=
  ⟨by decide, completing_shortest _, completing_longest _ _⟩

/-- One witness for each of the seven rows, at the values where the rows meet. -/
theorem witness_EveryByteFollowsTheStepTable :
    (idleAt 64).inputs = [] ∧ ((idleAt 64).present (.rx 0xFE#8)).Inv ∧ ((idleAt 64).present (.rx 0xFF#8)).Inv ∧
      ((lengthAt 64 1#8).Inv ∧ 1 ≤ (1#8 : Byte).toNat) ∧ ((lengthAt 64 64#8).Inv ∧ (64#8 : Byte).toNat ≤ 64) ∧
      (lengthAt 64 0#8).Inv ∧ ((lengthAt 64 65#8).Inv ∧ 64 < (65#8 : Byte).toNat) ∧
      ({ midPayload with dec := { midPayload.dec with received := 1#8 } }.Inv ∧ (1#8 : Byte).toNat + 1 < (3#8 : Byte).toNat) ∧
      (midPayload.Inv ∧ midPayload.dec.received.toNat + 1 = midPayload.dec.expected.toNat) :=
  have idle (b : Byte) : ((idleAt 64).present (.rx b)).Inv :=
    have h := inv_idleAt (cap := 64) (by decide) (by decide)
    ⟨h.cap, h.cursor, h.form, h.bound, h.stored⟩
  ⟨rfl, idle _, idle _, ⟨inv_lengthAt _ (by decide) (by decide), by decide⟩, ⟨inv_lengthAt _ (by decide) (by decide), by decide⟩,
    inv_lengthAt _ (by decide) (by decide), ⟨inv_lengthAt _ (by decide) (by decide), by decide⟩,
    ⟨⟨⟨by decide, by decide⟩, ⟨by decide, by decide, by decide⟩, by decide, by decide, fun _ => by decide⟩, by decide⟩,
    inv_midPayload, by decide⟩

/-- A byte in each parse state, a command, and a completing byte whose payload selects `Connect`. -/
theorem witness_StepRunsTheDecodedInstruction :
    decode (.byte 64 .idle 1#8 1#8) [0xFF#8] = .ok (.idleSync, []) ∧
      decode (.byte 64 .awaitLength 1#8 1#8) [64#8] = .ok (.lenAccept 64#8, []) ∧
      decode (.byte 64 .awaitPayload 3#8 2#8) [0x14#8] = .ok (.payComplete 0x14#8, []) ∧
      (atPort 2#8 1#8 0#8 0x77#8).inputs = .cmd 2#8 1#8 0#8 0x77#8 :: [] ∧
      selectCommand 2#8 1#8 0#8 0x77#8 = some (.setLed 1#8 0#8) ∧
      Completing (shortest 0x51#8) 0x51#8 [] ∧
      decode (.frame (shortest 0x51#8).cap)
        (0xFF#8 :: (shortest 0x51#8).dec.expected ::
          (List.range (shortest 0x51#8).dec.expected.toNat).map (frameByte (shortest 0x51#8) 0x51#8)) =
        .ok (.connect [], []) :=
  ⟨rfl, rfl, rfl, rfl, rfl, completing_shortest _, rfl⟩

theorem witness_StepsFaultOnAByteOffTheTableOrPastTheBuffer :
    ((mk 64 .awaitPayload 0#8 0#8 [] [.rx 1#8]).inputs = .rx 1#8 :: [] ∧
      (mk 64 .awaitPayload 0#8 0#8 [] [.rx 1#8]).dec.expected.toNat <
        (mk 64 .awaitPayload 0#8 0#8 [] [.rx 1#8]).dec.received.toNat + 1) ∧
    ((mk 1 .awaitPayload 2#8 1#8 [] [.rx 1#8]).inputs = .rx 1#8 :: [] ∧
      (mk 1 .awaitPayload 2#8 1#8 [] [.rx 1#8]).dec.received.toNat + 1 ≤
        (mk 1 .awaitPayload 2#8 1#8 [] [.rx 1#8]).dec.expected.toNat ∧
      (mk 1 .awaitPayload 2#8 1#8 [] [.rx 1#8]).cap ≤ (mk 1 .awaitPayload 2#8 1#8 [] [.rx 1#8]).dec.received.toNat) := by
  decide

theorem witness_FrameTooLargeExactlyOnAnOversizedLength :
    (∃ t, step (lengthAt 64 65#8) = .next t) ∧ (lengthAt 64 65#8).inputs = .rx 65#8 :: [] ∧
      (lengthAt 64 65#8).dec.st = .awaitLength ∧ (lengthAt 64 65#8).cap < (65#8 : Byte).toNat ∧
      ∃ t, step (lengthAt 64 64#8) = .next t :=
  ⟨⟨_, rfl⟩, rfl, rfl, by decide, ⟨_, rfl⟩⟩

/-- For every row: a payload of its type code alone, and a payload as long as the buffer. -/
theorem witness_TwoArgumentEventsOnThePort : ∀ c ∈ [52#8, 53#8, 54#8, 55#8, 56#8, 62#8, 63#8],
    (Completing (shortest c) c [] ∧ frameByte (shortest c) c 0 = c) ∧
      Completing (longest c 0x41#8) 0x41#8 [] ∧ frameByte (longest c 0x41#8) 0x41#8 0 = c :=
  fun c _ => ⟨⟨completing_shortest c, rfl⟩, completing_longest c _, rfl⟩

theorem witness_OneAndNoArgumentEventsOnThePort : ∀ c ∈ [58#8, 64#8, 81#8, 82#8],
    (Completing (shortest c) c [] ∧ frameByte (shortest c) c 0 = c) ∧
      Completing (longest c 0x41#8) 0x41#8 [] ∧ frameByte (longest c 0x41#8) 0x41#8 0 = c :=
  fun c _ => ⟨⟨completing_shortest c, rfl⟩, completing_longest c _, rfl⟩

/-- The empty string, and the longest. -/
theorem witness_SerialNumberOnThePort :
    (Completing (shortest 83#8) 83#8 [] ∧ (shortest 83#8).dec.expected.toNat ≤ (shortest 83#8).cap ∧
      frameByte (shortest 83#8) 83#8 0 = 83#8) ∧
    Completing (longest 83#8 0x41#8) 0x41#8 [] ∧ (longest 83#8 0x41#8).dec.expected.toNat ≤ (longest 83#8 0x41#8).cap ∧
      frameByte (longest 83#8 0x41#8) 0x41#8 0 = 83#8 :=
  ⟨⟨completing_shortest _, by decide, rfl⟩, completing_longest _ _, by decide, rfl⟩

theorem witness_UnhandledOnThePort : ∀ c ∈ [0#8, 51#8, 57#8, 61#8, 65#8, 80#8, 84#8, 255#8],
    (Completing (shortest c) c [] ∧ (shortest c).dec.expected.toNat ≤ (shortest c).cap ∧
      frameByte (shortest c) c 0 ∉ typedCodes) ∧
    Completing (longest c 0x41#8) 0x41#8 [] ∧ (longest c 0x41#8).dec.expected.toNat ≤ (longest c 0x41#8).cap ∧
      frameByte (longest c 0x41#8) 0x41#8 0 ∉ typedCodes := by
  intro c hc
  have h : c ∉ typedCodes := by revert c; decide
  exact ⟨⟨completing_shortest c, by decide +revert, h⟩, completing_longest c _, Nat.le_refl _, h⟩

/-- Every clause at its boundary opcodes; no opcode meets two of them. -/
theorem witness_RawOpcodePortEncodesOrRefuses :
    (∀ op ∈ [0#8, 1#8, 2#8, 3#8, 4#8, 5#8, 18#8, 19#8, 39#8, 40#8, 41#8, 255#8],
      (atPort op 1#8 2#8 3#8).inputs = .cmd op 1#8 2#8 3#8 :: []) ∧
    (∀ op ∈ [1#8, 3#8, 5#8, 18#8, 40#8], op = 1#8 ∨ op = 3#8 ∨ (5 ≤ op.toNat ∧ op.toNat ≤ 18) ∨ op = 40#8) ∧
    ∀ op ∈ [(0#8 : Byte), 19#8, 39#8, 41#8, 255#8],
      op.toNat = 0 ∨ (19 ≤ op.toNat ∧ op.toNat ≤ 39) ∨ 41 ≤ op.toNat := by decide

theorem witness_TransmitStreamGrowsByWholeFrames :
    (∃ t, step (atPort 4#8 1#8 2#8 3#8) = .next t ∧ t.tx ≠ (atPort 4#8 1#8 2#8 3#8).tx) ∧
      ∃ t, step midPayload = .next t ∧ t.tx = midPayload.tx :=
  ⟨⟨_, rfl, by decide⟩, _, rfl, rfl⟩

theorem witness_DecoderAndEncoderAreIndependent :
    (∃ t, step midPayload = .next t) ∧ midPayload.inputs = .rx 0x14#8 :: [] ∧
      (∃ t, step (atPort 4#8 1#8 2#8 3#8) = .next t) ∧ (atPort 4#8 1#8 2#8 3#8).inputs = .cmd 4#8 1#8 2#8 3#8 :: [] :=
  ⟨⟨_, rfl⟩, rfl, ⟨_, rfl⟩, rfl⟩

theorem witness_EventsAndCommandsLeaveTheDecoder :
    (∃ t, exec (.membranePress [1#8]) midPayload = .next t) ∧ (Instr.membranePress [1#8]).family = .event ∧
      (∃ t, exec (.setLed 1#8 0#8) midPayload = .next t) ∧ (Instr.setLed 1#8 0#8).family = .command :=
  ⟨⟨_, rfl⟩, rfl, ⟨_, rfl⟩, rfl⟩

theorem witness_ByteStepsLeaveTheRest :
    ((Instr.payComplete 0x14#8).family = .byteStep ∧ ∃ t, exec (.payComplete 0x14#8) midPayload = .next t) ∧
      (Instr.lenOversize 65#8).family = .byteStep ∧ ∃ t, exec (.lenOversize 65#8) midPayload = .next t :=
  ⟨⟨rfl, _, rfl⟩, rfl, _, rfl⟩

theorem witness_OnlyPayloadBytesAreWritten :
    (∃ t, step midPayload = .next t) ∧ midPayload.inputs = .rx 0x14#8 :: [] ∧ midPayload.dec.st = .awaitPayload ∧
      (∃ t, step (lengthAt 64 1#8) = .next t) ∧ (lengthAt 64 1#8).inputs = .rx 1#8 :: [] ∧
      (lengthAt 64 1#8).dec.st ≠ .awaitPayload ∧ (∃ t, step (idleAt 64) = .next t) ∧ (idleAt 64).inputs = [] ∧
      (∃ t, step (atPort 4#8 1#8 2#8 3#8) = .next t) ∧ (atPort 4#8 1#8 2#8 3#8).inputs = .cmd 4#8 1#8 2#8 3#8 :: [] :=
  ⟨⟨_, rfl⟩, rfl, rfl, ⟨_, rfl⟩, rfl, by decide, ⟨_, rfl⟩, rfl, ⟨_, rfl⟩, rfl⟩

theorem witness_CapacityIsNeverWritten : ∃ t, step midPayload = .next t := ⟨_, rfl⟩

theorem witness_InvariantHoldsAtReset : legalCap 1 ∧ legalCap 64 ∧ legalCap 255 :=
  ⟨⟨by decide, by decide⟩, ⟨by decide, by decide⟩, ⟨by decide, by decide⟩⟩

theorem witness_EveryStepGoesOnAndKeepsTheInvariant :
    midPayload.Inv ∧ (lengthAt 1 2#8).Inv ∧ (lengthAt 255 255#8).Inv ∧ (idleAt 1).Inv :=
  ⟨inv_midPayload, inv_lengthAt _ (by decide) (by decide), inv_lengthAt _ (by decide) (by decide),
    inv_idleAt (by decide) (by decide)⟩

theorem witness_NoRunFromResetEverStops : legalCap 1 ∧ legalCap 255 :=
  ⟨⟨by decide, by decide⟩, ⟨by decide, by decide⟩⟩

/-- A frame cut inside its payload (S1). -/
theorem witness_FeedingIsChunkInvariant :
    ∃ t os u os', feed (idleAt 64) [0xFF#8, 3#8, 52#8] = .next (t, os) ∧ feed t [10#8, 20#8] = .next (u, os') ∧
      feed (idleAt 64) ([0xFF#8, 3#8, 52#8] ++ [10#8, 20#8]) = .next (u, os ++ os') :=
  ⟨_, _, _, _, rfl, rfl, rfl⟩

theorem witness_IdleSkipsAnythingButSync :
    (idleAt 64).dec.st = .idle ∧ 0xFF#8 ∉ ([0x41#8, 0x42#8, 0x43#8, 0x00#8, 0xFE#8, 0x7F#8, 0x80#8] : List Byte) := by
  decide

theorem witness_AtMostOneOutputPerByte :
    ∃ u os, feed (idleAt 64) [0xFF#8, 0#8, 0xFF#8, 65#8] = .next (u, os) ∧ os.length = 2 := ⟨_, _, rfl, rfl⟩

/-- The shortest and the longest payload. -/
theorem witness_WellFormedFrameGivesItsEvent :
    (idleAt 64).dec.st = .idle ∧ (idleAt 64).cap = 64 ∧
      (1 ≤ (1#8 : Byte).toNat ∧ (1#8 : Byte).toNat ≤ 64 ∧ ([0x51#8] : List Byte).length = (1#8 : Byte).toNat) ∧
      (64#8 : Byte).toNat ≤ 64 ∧ (List.replicate 64 (0xFF#8 : Byte)).length = (64#8 : Byte).toNat := by decide

/-- Capacity 4 for the first clause, 3 and 2 for the others. -/
theorem witness_EncodedCommandsComeBackUnhandled :
    ((idleAt 4).dec.st = .idle ∧ 4 ≤ (idleAt 4).cap) ∧
      ((idleAt 3).Inv ∧ (idleAt 3).dec.st = .idle ∧ (idleAt 3).cap < 4) ∧
      (idleAt 2).Inv ∧ (idleAt 2).dec.st = .idle ∧ (idleAt 2).cap < 3 :=
  ⟨by decide, ⟨inv_idleAt (by decide) (by decide), rfl, by decide⟩, inv_idleAt (by decide) (by decide), rfl, by decide⟩

theorem witness_RepeatedSyncBytesPairUp : (idleAt 254).dec.st = .idle ∧ (idleAt 254).cap < 255 := by decide

/-- The two hold different stale registers and different stale bytes. -/
theorem witness_StaleBytesNeverShow :
    (idleAt 64).Inv ∧ (State.resetWith 64).Inv ∧ (idleAt 64).cap = (State.resetWith 64).cap ∧
      (idleAt 64).draws = (State.resetWith 64).draws ∧ (idleAt 64).dec.alike (State.resetWith 64).dec ∧
      (idleAt 64).dec ≠ (State.resetWith 64).dec :=
  ⟨inv_idleAt (by decide) (by decide),
    ⟨⟨by decide, by decide⟩, ⟨by decide, by decide, fun h => by cases h⟩, by decide, by decide, fun h => by cases h⟩,
    rfl, rfl, ⟨rfl, fun h => by cases h⟩, by decide⟩

/-- The same inside a payload, with a stale byte past the cursor in one of the two. -/
theorem witness_StaleBytesNeverShow_inside_a_payload :
    midPayload.dec.alike { midPayload.dec with buf := cells [0x34#8, 0x0A#8, 0x77#8] } :=
  ⟨rfl, fun _ => ⟨rfl, rfl, fun i hi => by
    have : i = 0 ∨ i = 1 := by
      have : i < 2 := hi
      omega
    rcases this with rfl | rfl <;> rfl⟩⟩

/-- Payloads at the bounds of the smallest and the largest capacity. -/
theorem witness_EventFramesDecodeBack :
    ((Instr.connect []).family = .event ∧ (Instr.connect []).wellFormed 1 = true) ∧
      (Instr.serialNumber (List.replicate 63 0xFF#8)).wellFormed 64 = true ∧
      (Instr.unhandled 0xFF#8 [1#8]).wellFormed 2 = true ∧ Instr.empty.wellFormed 1 = true := by decide

theorem witness_CommandFramesDecodeBack :
    (Instr.setTone 255#8 255#8 255#8).family = .command ∧ Instr.getSerialNumber.family = .command := by decide

theorem witness_ByteStepsDecodeBack :
    (0xFE#8 : Byte) ≠ 0xFF#8 ∧ (1 ≤ (1#8 : Byte).toNat ∧ (1#8 : Byte).toNat ≤ 1) ∧ (64#8 : Byte).toNat ≤ 64 ∧
      64 < (65#8 : Byte).toNat ∧ (0#8 : Byte).toNat + 1 < (2#8 : Byte).toNat ∧ (254#8 : Byte).toNat + 1 = (255#8 : Byte).toNat := by
  decide

theorem witness_DecodedInstructionsEncodeBack :
    decode .command [0xFF#8, 3#8, 2#8, 255#8, 255#8, 9#8] = .ok (.setLed 255#8 255#8, [9#8]) ∧
      decode (.frame 64) [0xFF#8, 2#8, 0x39#8, 7#8, 9#8] = .ok (.unhandled 57#8 [7#8], [9#8]) ∧
      decode (.byte 64 .awaitLength 0#8 0#8) [65#8] = .ok (.lenOversize 65#8, []) := ⟨rfl, rfl, rfl⟩

theorem witness_DecodedInstructionsAreWellFormed :
    decode .command [0xFF#8, 3#8, 2#8, 255#8, 255#8] = .ok (.setLed 255#8 255#8, []) ∧
      decode (.frame 1) [0xFF#8, 1#8, 0x51#8] = .ok (.connect [], []) ∧
      decode (.byte 1 .awaitLength 0#8 0#8) [1#8] = .ok (.lenAccept 1#8, []) := ⟨rfl, rfl, rfl⟩

/-- The longest event of the largest capacity, an event of no payload, and a step without an event. -/
theorem witness_EventPortShowsTheEvent :
    ({ idleAt 255 with out := .ev .connect 255 }.out = .ev .connect 255 ∧ 255 ≤ (idleAt 255).cap) ∧
      { idleAt 1 with out := .ev .empty 0 }.out = .ev .empty 0 ∧ ∀ e n, (idleAt 64).out ≠ .ev e n :=
  ⟨⟨rfl, by decide⟩, rfl, fun _ _ h => by cases h⟩

theorem witness_ErrorPortShowsTheError :
    { idleAt 64 with out := .err .frameTooLarge 65#8 }.out = .err .frameTooLarge 65#8 ∧
      ∀ b, (idleAt 64).out ≠ .err .frameTooLarge b := ⟨rfl, fun _ h => by cases h⟩

end Sys2Proof.Tests
end

section
/-!
The state after reset and the numbering of the events (10_state.md R34, R43).
-/
namespace Sys2Proof.Proofs

open Sys2Proof Sys2Proof.Machine

/-! ## Reset (10_state.md R34) -/

@[simp] theorem resetWith_cap (cap : Nat) : (State.resetWith cap).cap = cap := rfl
@[simp] theorem resetWith_dec (cap : Nat) : (State.resetWith cap).dec = DecoderState.reset := rfl
@[simp] theorem resetWith_out (cap : Nat) : (State.resetWith cap).out = .none := rfl

@[simp] theorem reset_st : DecoderState.reset.st = .idle := rfl
@[simp] theorem reset_received : DecoderState.reset.received = 0#8 := rfl
@[simp] theorem reset_expected : DecoderState.reset.expected = 0#8 := rfl

/-- No buffer byte has a known value after reset. -/
@[simp] theorem reset_buf_read (a : Nat) : DecoderState.reset.buf.read a = none := rfl

/-- `CAP` is 64 where the build does not set it (00_scope.md R9). -/
theorem reset_eq_resetWith : State.reset = State.resetWith 64 := rfl

/-- Settles O1: each field of the reset state by its own lemma. -/
theorem resetLeavesAnIdleDecoder : Obligations.ResetLeavesAnIdleDecoder := by
  intro cap
  rw [resetWith_dec]
  exact ⟨resetWith_cap cap, reset_st, reset_received, reset_expected, reset_buf_read, resetWith_out cap, reset_eq_resetWith⟩

/-! ## The numbers of the event variants (10_state.md R43) -/

/-- The fourteen variants use the codes 0 to 13 only. -/
theorem eventKind_toNat_le (e : Event) : (eventKind e).toNat ≤ 13 := by
  cases e <;> simp [eventKind]

/-- A code past 13 is the code of no event. -/
theorem eventKind_ne_of_lt {c : BitVec 4} (hc : 13 < c.toNat) (e : Event) : eventKind e ≠ c := by
  rintro rfl
  exact absurd (eventKind_toNat_le e) (Nat.not_le.mpr hc)

/-- Settles O54: the table is the definition of `eventKind`, one equation a variant; 14 and 15 lie past its bound. -/
theorem eventKindsAreAsNumbered : Obligations.EventKindsAreAsNumbered := by
  refine ⟨fun x y l => ?table, fun e => ⟨?fourteen, ?fifteen⟩⟩
  case table => simp only [eventKind, and_self]
  case fourteen => exact eventKind_ne_of_lt (by decide) e
  case fifteen => exact eventKind_ne_of_lt (by decide) e

end Sys2Proof.Proofs
end

section
/-!
What the memory rules say of a step: the one buffer byte it writes (20_memory.md R51) and the independence of the
decoder and the encoder (R68).
-/
namespace Sys2Proof.Proofs

open Sys2Proof Sys2Proof.Machine

/-! ## The two byte-steps that store, read back (40_decoder_framing.md R116, R117) -/

/-- `PAY-STORE` answers next only by storing the byte below the capacity. -/
theorem exec_payStore_eq_next {s t : State} {b : Byte} (h : exec (.payStore b) s = .next t) :
    s.dec.received.toNat < s.cap ∧ t = ((s.pushByte b).enter .awaitPayload).emit .none := by
  obtain ⟨u, hstore, hrest⟩ := onNext_eq_next h
  obtain ⟨hlt, rfl⟩ := storePayloadByte_eq_next hstore
  cases hrest
  exact ⟨hlt, rfl⟩

/-- `PAY-COMPLETE` answers next only by storing the byte below the capacity and emitting an event of length
`expected`. -/
theorem exec_payComplete_eq_next {s t : State} {b : Byte} (h : exec (.payComplete b) s = .next t) :
    s.dec.received.toNat < s.cap ∧
      ∃ e, t = ((s.pushByte b).enter .idle).emit (.ev e s.dec.expected.toNat) := by
  obtain ⟨u, hstore, hdispatch⟩ := onNext_eq_next h
  obtain ⟨hlt, rfl⟩ := storePayloadByte_eq_next hstore
  obtain ⟨e, he⟩ := dispatchEvent_emits
    ((s.pushByte b).dec.payload (s.pushByte b).dec.expected.toNat) ((s.pushByte b).enter .idle)
  rw [payload_length, pushByte_dec_expected] at he
  cases he.symm.trans hdispatch
  exact ⟨hlt, e, rfl⟩

/-! ## What a step on a byte can do -/

/-- A step on a byte updates the registers in one of three ways and then enters a parse state and gives its output.
Outside `AwaitPayload` it keeps them or loads a length; in `AwaitPayload` it stores the byte. -/
theorem runByte_updates {s t : State} {b : Byte} (h : runByte b s = .next t) :
    ∃ u p o, t = (u.enter p).emit o ∧
      ((s.dec.st ≠ .awaitPayload ∧ (u = s ∨ ∃ n, u = s.loadLength n)) ∨
        (s.dec.st = .awaitPayload ∧ u = s.pushByte b)) := by
  obtain ⟨i, hselect, hexec⟩ := runByte_eq_next h
  rcases selectByte_cases hselect with ⟨hst, -, rfl⟩ | ⟨hst, -, rfl⟩ | ⟨hst, -, rfl⟩ | ⟨hst, -, -, rfl⟩ |
    ⟨hst, -, rfl⟩ | ⟨hst, -, rfl⟩ | ⟨hst, -, rfl⟩
  · -- IDLE-SYNC
    cases hexec
    exact ⟨s, .awaitLength, .none, rfl, .inl ⟨by simp [hst], .inl rfl⟩⟩
  · -- IDLE-SKIP
    cases hexec
    exact ⟨s, .idle, .none, rfl, .inl ⟨by simp [hst], .inl rfl⟩⟩
  · -- LEN-ZERO
    cases hexec
    exact ⟨s.loadLength 0#8, .idle, .ev .empty 0, rfl, .inl ⟨by simp [hst], .inr ⟨_, rfl⟩⟩⟩
  · -- LEN-ACCEPT
    cases hexec
    exact ⟨s.loadLength b, .awaitPayload, .none, rfl, .inl ⟨by simp [hst], .inr ⟨_, rfl⟩⟩⟩
  · -- LEN-OVERSIZE
    cases hexec
    exact ⟨s, .idle, .err .frameTooLarge b, rfl, .inl ⟨by simp [hst], .inl rfl⟩⟩
  · -- PAY-STORE
    obtain ⟨-, rfl⟩ := exec_payStore_eq_next hexec
    exact ⟨_, _, _, rfl, .inr ⟨hst, rfl⟩⟩
  · -- PAY-COMPLETE
    obtain ⟨-, e, rfl⟩ := exec_payComplete_eq_next hexec
    exact ⟨_, _, _, rfl, .inr ⟨hst, rfl⟩⟩

/-- A step on a byte in `AwaitPayload` writes that byte at the cursor (20_memory.md R51). -/
theorem step_rx_buf_of_awaitPayload {s t : State} {b : Byte} {rest : List Input} (hin : s.inputs = .rx b :: rest)
    (h : step s = .next t) (hst : s.dec.st = .awaitPayload) :
    t.dec.buf = s.dec.buf.write s.dec.received.toNat b := by
  rw [step_rx hin] at h
  obtain ⟨u, p, o, rfl, ⟨hne, -⟩ | ⟨-, rfl⟩⟩ := runByte_updates h
  · exact absurd hst hne
  · simp only [emit_dec, enter_dec_buf, pushByte_dec_buf, advance_dec]

/-- A step on a byte in `Idle` or `AwaitLength` writes no buffer byte (20_memory.md R51). -/
theorem step_rx_buf_of_ne_awaitPayload {s t : State} {b : Byte} {rest : List Input} (hin : s.inputs = .rx b :: rest)
    (h : step s = .next t) (hst : s.dec.st ≠ .awaitPayload) : t.dec.buf = s.dec.buf := by
  rw [step_rx hin] at h
  obtain ⟨u, p, o, rfl, ⟨-, rfl | ⟨n, rfl⟩⟩ | ⟨heq, -⟩⟩ := runByte_updates h
  · simp only [emit_dec, enter_dec_buf, advance_dec]
  · simp only [emit_dec, enter_dec_buf, loadLength_dec_buf, advance_dec]
  · exact absurd heq hst

/-- A step on a byte leaves the encoder's port and the transmit stream (20_memory.md R68). -/
theorem step_rx_encoder {s t : State} {b : Byte} {rest : List Input} (hin : s.inputs = .rx b :: rest)
    (h : step s = .next t) : t.enc = s.enc ∧ t.tx = s.tx := by
  rw [step_rx hin] at h
  obtain ⟨u, p, o, rfl, ⟨-, rfl | ⟨n, rfl⟩⟩ | ⟨-, rfl⟩⟩ := runByte_updates h
  all_goals exact ⟨rfl, rfl⟩

/-! ## What a step on a command leaves -/

/-- A step on a command leaves the decoder and has no output, whether the port sends a frame or refuses the opcode
(20_memory.md R68). -/
theorem step_cmd_decoder {s t : State} {op a0 a1 a2 : Byte} {rest : List Input}
    (hin : s.inputs = .cmd op a0 a1 a2 :: rest) (h : step s = .next t) : t.dec = s.dec ∧ t.out = .none := by
  rw [step_cmd hin] at h
  rcases runCommand_cases op a0 a1 a2 (s.advance rest) with ⟨i, -, hsent⟩ | ⟨-, hrefused⟩
  · cases hsent.symm.trans h
    simp only [presentFrame_dec, presentFrame_out, advance_dec, advance_out, and_self]
  · cases hrefused.symm.trans h
    simp only [refuseOpcode_dec, refuseOpcode_out, advance_dec, advance_out, and_self]

/-! ## The ports without an output (10_state.md R37, R38) -/

/-- Without an output the event port shows no event. -/
theorem eventPort_valid_of_out_none {s : State} (h : s.out = .none) : s.eventPort.valid = false := by
  simp [State.eventPort, h]

/-- Without an output the error port shows no error. -/
theorem noError_of_out_none {s : State} (h : s.out = .none) : Claims.noError s := by
  simp [Claims.noError, State.errorPort, h]

/-! ## The obligations -/

/-- Settles O33: a byte by the parse state it is received in, no input by its equation, a command by the decoder it
leaves. -/
theorem onlyPayloadBytesAreWritten : Obligations.OnlyPayloadBytesAreWritten := by
  intro s t hstep
  refine ⟨fun b rest hin hst => ?payload, fun b rest hin hst => ?framing, fun hin => ?noInput,
    fun op a0 a1 a2 rest hin => ?command⟩
  case payload =>
    rw [step_rx_buf_of_awaitPayload hin hstep hst]
    exact ⟨Memory.read_write_same _ _ _, fun a ha => Memory.read_write_other _ _ ha⟩
  case framing => exact step_rx_buf_of_ne_awaitPayload hin hstep hst
  case noInput =>
    cases (step_none hin).symm.trans hstep
    rw [advance_dec]
  case command =>
    obtain ⟨hdec, -⟩ := step_cmd_decoder hin hstep
    rw [hdec]

/-- Settles O30: a byte's step leaves the encoder's fields; a command's leaves the decoder and has no output for the
ports to show. -/
theorem decoderAndEncoderAreIndependent : Obligations.DecoderAndEncoderAreIndependent := by
  intro s t hstep
  refine ⟨fun b rest hin => step_rx_encoder hin hstep, fun op a0 a1 a2 rest hin => ?command⟩
  case command =>
    obtain ⟨hdec, hout⟩ := step_cmd_decoder hin hstep
    exact ⟨hdec, eventPort_valid_of_out_none hout, noError_of_out_none hout⟩

end Sys2Proof.Proofs
end

section
/-!
The type codes without a variant of their own (30_encoding.md R87).
-/
namespace Sys2Proof.Proofs

open Sys2Proof Sys2Proof.Machine Sys2Proof.Claims

/-- The twelve codes of the rule are the codes of the type-code table (30_encoding.md R86). -/
theorem mem_typedCodes_iff {t : Byte} : t ∈ typedCodes ↔ ∃ e, typeCode e = t := by
  have htable : typedCodes = eventNames.map typeCode := rfl
  have hall (e : EventName) : e ∈ eventNames := by cases e <;> decide
  simp [htable, hall]

/-- A code of the table selects a typed variant. -/
theorem selectEvent_of_typed {e : EventName} {t : Byte} (h : eventOfCode t = some e) (args : List Byte) :
    selectEvent (t :: args) = eventWithArgs e args := by
  simp only [selectEvent, h]

/-- A code outside the table selects `Unhandled`. -/
theorem selectEvent_of_untyped {t : Byte} (h : eventOfCode t = none) (args : List Byte) :
    selectEvent (t :: args) = .unhandled t args := by
  simp only [selectEvent, h]

/-- No typed variant is `Unhandled`. -/
theorem eventWithArgs_ne_unhandled (e : EventName) (args bs : List Byte) (t : Byte) :
    eventWithArgs e args ≠ .unhandled t bs := by
  cases e <;> exact Instr.noConfusion

/-- A payload gives `Unhandled` exactly when its type code is none of the twelve (30_encoding.md R87). -/
theorem selectEvent_eq_unhandled_iff (t : Byte) (args : List Byte) :
    selectEvent (t :: args) = .unhandled t args ↔ t ∉ typedCodes := by
  rw [mem_typedCodes_iff]
  cases hcode : eventOfCode t with
  | some e =>
    rw [selectEvent_of_typed hcode]
    exact iff_of_false (eventWithArgs_ne_unhandled e args args t) fun hnone => hnone ⟨e, eventOfCode_some hcode⟩
  | none =>
    refine iff_of_true (selectEvent_of_untyped hcode args) ?_
    rintro ⟨e, rfl⟩
    rw [eventOfCode_typeCode] at hcode
    cases hcode

/-- The twelve typed codes as numbers. -/
def typedNumbers : Finset Nat := (typedCodes.map BitVec.toNat).toFinset

/-- A byte value's code is typed exactly when the value is one of the twelve numbers. -/
theorem ofNat_mem_typedCodes_iff {n : Nat} (hn : n < 256) :
    BitVec.ofNat 8 n ∈ typedCodes ↔ n ∈ typedNumbers := by
  have htoNat : (BitVec.ofNat 8 n).toNat = n := Nat.mod_eq_of_lt hn
  rw [typedNumbers, List.mem_toFinset, List.mem_map]
  constructor
  · exact fun hmem => ⟨_, hmem, htoNat⟩
  · rintro ⟨t, hmem, rfl⟩
    rwa [BitVec.ofNat_toNat, BitVec.setWidth_eq]

/-- The twelve numbers are distinct and are byte values, so 256 - 12 byte values are left (30_encoding.md R87). -/
theorem length_untypedCodes :
    ((List.range 256).filter fun n => decide (BitVec.ofNat 8 n ∉ typedCodes)).length = 244 := by
  have hbytes : typedNumbers ⊆ Finset.range 256 := by decide
  have htwelve : typedNumbers.card = 12 := by decide
  have hrest : (Finset.range 256).filter (fun n => BitVec.ofNat 8 n ∉ typedCodes) =
      Finset.range 256 \ typedNumbers := by
    rw [← Finset.filter_notMem_eq_sdiff]
    exact Finset.filter_congr fun n hn => not_congr (ofNat_mem_typedCodes_iff (Finset.mem_range.mp hn))
  calc ((List.range 256).filter fun n => decide (BitVec.ofNat 8 n ∉ typedCodes)).length
      = ((Finset.range 256).filter fun n => BitVec.ofNat 8 n ∉ typedCodes).card := rfl
    _ = (Finset.range 256).card - typedNumbers.card := by rw [hrest, Finset.card_sdiff_of_subset hbytes]
    _ = 244 := by rw [Finset.card_range, htwelve]

/-- Settles O51: the selection by the two ways a code's lookup can end, the number as 256 less the twelve. -/
theorem otherTypeCodesAreUnhandled : Obligations.OtherTypeCodesAreUnhandled :=
  ⟨selectEvent_eq_unhandled_iff, length_untypedCodes⟩

end Sys2Proof.Proofs
end

section
/-!
The Frame Decoder: the seven byte-steps and the step table that selects them (40_decoder_framing.md R110 to R117), over
one equation for the event decoder (41_event_dispatch.md R140).
-/
namespace Sys2Proof.Proofs

open Sys2Proof Sys2Proof.Machine Sys2Proof.Claims

/-! ## The event decoder on a payload read from a buffer (41_event_dispatch.md R140) -/

/-- A typed variant's argument is the payload byte at its offset, or this step's free value past the length. -/
theorem eventArg_eq_atOffset (s : State) (m i : Nat) (buf : Nat → Byte) :
    eventArg s ((List.range m).map fun k => buf (k + 1)) (i + 1) = atOffset s.draws (m + 1) buf (i + 1) := by
  simp only [eventArg, atOffset, Nat.add_sub_cancel, List.getElem?_map, Nat.add_lt_add_iff_right]
  by_cases hi : i < m
  · simp [hi]
  · simp [hi]

/-- The event of a code of the type-code table: the branch of `decode_event` for that code. -/
theorem exec_eventWithArgs_eq_decodeEvent {e : EventName} {buf : Nat → Byte} (hcode : buf 0 = typeCode e) (m : Nat)
    (s : State) :
    exec (eventWithArgs e ((List.range m).map fun k => buf (k + 1))) s =
      .next (s.emit (.ev (decodeEvent s.draws (m + 1) buf) (m + 1))) := by
  have hfirst := eventArg_eq_atOffset s m 0 buf
  have hsecond := eventArg_eq_atOffset s m 1 buf
  cases e <;>
    simp [eventWithArgs, exec, decodeEvent, hcode, typeCode, payloadLength, execMembranePress, execMembraneRelease,
      execSwitch, execSensorChange, execVersion, execOnOffSwitch, execCorrectMembrane, execCorrectSwitch,
      execCorrectDone, execConnect, execDisconnect, execSerialNumber, firstArg, secondArg, hfirst, hsecond]

/-- The event of a code outside the table: no branch of `decode_event` but the last applies. -/
theorem decodeEvent_of_not_mem_typedCodes {buf : Nat → Byte} (hcode : buf 0 ∉ typedCodes) (draw m : Nat) :
    decodeEvent draw (m + 1) buf = .unhandled (buf 0) ((List.range (m + 1)).map buf) := by
  simp only [typedCodes, List.mem_cons, List.not_mem_nil, or_false, not_or] at hcode
  simp [decodeEvent, hcode]

/-- The variant that a payload `buf[0 .. n)` selects emits `decode_event(n, buf)` with length `n` and writes nothing
else. -/
theorem exec_selectEvent_eq_decodeEvent (s : State) (n : Nat) (buf : Nat → Byte) :
    exec (selectEvent ((List.range n).map buf)) s = .next (s.emit (.ev (decodeEvent s.draws n buf) n)) := by
  cases n with
  | zero => rfl
  | succ m =>
    have hpayload : (List.range (m + 1)).map buf = buf 0 :: (List.range m).map fun k => buf (k + 1) := by
      rw [List.range_succ_eq_map, List.map_cons, List.map_map]
      rfl
    rw [hpayload]
    cases hcode : eventOfCode (buf 0) with
    | some e =>
      rw [selectEvent_of_typed hcode]
      exact exec_eventWithArgs_eq_decodeEvent (eventOfCode_some hcode).symm m s
    | none =>
      have hother : buf 0 ∉ typedCodes := by
        rw [← selectEvent_eq_unhandled_iff (buf 0) []]
        exact selectEvent_of_untyped hcode []
      rw [selectEvent_of_untyped hcode, decodeEvent_of_not_mem_typedCodes hother, hpayload]
      simp [exec, execUnhandled, payloadLength]

/-! ## The payload with the byte just stored -/

/-- The buffer bytes with the byte stored at the cursor. -/
theorem pushByte_bufByte_eq_frameByte (s : State) (b : Byte) : (s.pushByte b).dec.bufByte = frameByte s b :=
  funext (pushByte_bufByte s b)

/-- `frameByte` reads the decoder only, which a step has not changed when its instruction starts. -/
theorem frameByte_taken (s : State) (rest : List Input) (b : Byte) : frameByte (taken s rest) b = frameByte s b := rfl

/-- Entering a parse state and giving an output leave every buffer byte. -/
theorem emit_enter_bufByte (p : ParseState) (o : Out) (s : State) :
    ((s.enter p).emit o).dec.bufByte = s.dec.bufByte := rfl

/-- `PAY-COMPLETE` emits `decode_event` of the payload that includes the byte just stored (R117). -/
theorem exec_payComplete_emits {s : State} (b : Byte) (h : s.dec.received.toNat < s.cap) :
    exec (.payComplete b) s = .next (((s.pushByte b).enter .idle).emit
      (.ev (decodeEvent s.draws s.dec.expected.toNat (frameByte s b)) s.dec.expected.toNat)) := by
  rw [exec_payComplete b h, DecoderState.payload, exec_selectEvent_eq_decodeEvent, pushByte_bufByte_eq_frameByte,
    enter_draws, pushByte_draws]

/-- A count below a byte's value does not wrap when it goes up by one. -/
theorem toNat_add_one_of_lt {r e : Byte} (h : r.toNat < e.toNat) : (r + 1#8).toNat = r.toNat + 1 := by
  bv_omega

/-- The cursor reaches the target length with the last byte. -/
theorem add_one_eq_of_toNat {r e : Byte} (h : r.toNat + 1 = e.toNat) : r + 1#8 = e := by
  bv_omega

/-! ## The step table as steps: which byte-step a received byte runs (R110) -/

section Rows

variable {s : State} {b : Byte} {rest : List Input}

/-- A step on a byte runs the byte-step the table selects. -/
theorem step_eq_exec_of_select {i : Instr} (hin : s.inputs = .rx b :: rest)
    (hselect : selectByte s.cap s.dec.st s.dec.expected s.dec.received b = some i) :
    step s = exec i (taken s rest) :=
  (step_rx hin).trans (runByte_of_select (s := s.advance rest) hselect)

theorem step_eq_idleSkip (hin : s.inputs = .rx b :: rest) (hst : s.dec.st = .idle) (hb : b ≠ sync) :
    step s = exec (.idleSkip b) (taken s rest) :=
  step_eq_exec_of_select hin (by rw [hst, selectByte_idle_skip _ _ _ hb])

theorem step_eq_idleSync (hin : s.inputs = .rx sync :: rest) (hst : s.dec.st = .idle) :
    step s = exec .idleSync (taken s rest) :=
  step_eq_exec_of_select hin (by rw [hst, selectByte_idle_sync])

theorem step_eq_lenAccept (hin : s.inputs = .rx b :: rest) (hst : s.dec.st = .awaitLength) (hpos : 1 ≤ b.toNat)
    (hcap : b.toNat ≤ s.cap) : step s = exec (.lenAccept b) (taken s rest) :=
  step_eq_exec_of_select hin (by rw [hst, selectByte_len_accept _ _ hpos hcap])

theorem step_eq_lenZero (hin : s.inputs = .rx 0#8 :: rest) (hst : s.dec.st = .awaitLength) :
    step s = exec .lenZero (taken s rest) :=
  step_eq_exec_of_select hin (by rw [hst, selectByte_len_zero])

theorem step_eq_lenOversize (hin : s.inputs = .rx b :: rest) (hst : s.dec.st = .awaitLength) (hcap : s.cap < b.toNat) :
    step s = exec (.lenOversize b) (taken s rest) :=
  step_eq_exec_of_select hin (by rw [hst, selectByte_len_oversize _ _ hcap])

theorem step_eq_payStore (hin : s.inputs = .rx b :: rest) (hst : s.dec.st = .awaitPayload)
    (hmore : s.dec.received.toNat + 1 < s.dec.expected.toNat) : step s = exec (.payStore b) (taken s rest) :=
  step_eq_exec_of_select hin (by rw [hst, selectByte_pay_store _ _ hmore])

theorem step_eq_payComplete (hin : s.inputs = .rx b :: rest) (hst : s.dec.st = .awaitPayload)
    (hlast : s.dec.received.toNat + 1 = s.dec.expected.toNat) : step s = exec (.payComplete b) (taken s rest) :=
  step_eq_exec_of_select hin (by rw [hst, selectByte_pay_complete _ _ hlast])

/-! ## What the two storing rows answer in a state with room for the byte -/

theorem step_payStore_eq_next (hin : s.inputs = .rx b :: rest) (hst : s.dec.st = .awaitPayload)
    (hmore : s.dec.received.toNat + 1 < s.dec.expected.toNat) (hroom : s.dec.received.toNat < s.cap) :
    step s = .next ((((taken s rest).pushByte b).enter .awaitPayload).emit .none) :=
  (step_eq_payStore hin hst hmore).trans (exec_payStore (s := taken s rest) b hroom)

theorem step_payComplete_eq_next (hin : s.inputs = .rx b :: rest) (hst : s.dec.st = .awaitPayload)
    (hlast : s.dec.received.toNat + 1 = s.dec.expected.toNat) (hroom : s.dec.received.toNat < s.cap) :
    step s = .next ((((taken s rest).pushByte b).enter .idle).emit
      (.ev (decodeEvent (s.draws + 1) s.dec.expected.toNat (frameByte s b)) s.dec.expected.toNat)) :=
  (step_eq_payComplete hin hst hlast).trans (exec_payComplete_emits (s := taken s rest) b hroom)

/-- The invariant leaves room in the buffer for the byte that is awaited (10_state.md R25). -/
theorem received_lt_cap_of_inv (hinv : s.Inv) (hst : s.dec.st = .awaitPayload) : s.dec.received.toNat < s.cap := by
  obtain ⟨-, hexpected, hawait⟩ := hinv.cursor
  exact (hawait hst).2.trans_le hexpected

/-- From a state with the invariant every byte has a row and its byte-step goes on. -/
theorem step_rx_answers_next_of_inv (hinv : s.Inv) (hin : s.inputs = .rx b :: rest) : ∃ t, step s = .next t := by
  cases hst : s.dec.st with
  | idle =>
    by_cases hb : b = sync
    · subst hb
      exact ⟨_, step_eq_idleSync hin hst⟩
    · exact ⟨_, step_eq_idleSkip hin hst hb⟩
  | awaitLength =>
    by_cases hzero : b = 0#8
    · subst hzero
      exact ⟨_, step_eq_lenZero hin hst⟩
    · rcases Nat.lt_or_ge s.cap b.toNat with hover | hfits
      · exact ⟨_, step_eq_lenOversize hin hst hover⟩
      · exact ⟨_, step_eq_lenAccept hin hst (toNat_pos_of_ne_zero hzero) hfits⟩
  | awaitPayload =>
    have hroom := received_lt_cap_of_inv hinv hst
    obtain ⟨-, -, hawait⟩ := hinv.cursor
    rcases Nat.lt_or_eq_of_le (hawait hst).2 with hmore | hlast
    · exact ⟨_, step_payStore_eq_next hin hst hmore hroom⟩
    · exact ⟨_, step_payComplete_eq_next hin hst hlast hroom⟩

end Rows

/-! ## The ports with an event (10_state.md R37, R38) -/

/-- With an event the error port shows no error. -/
theorem noError_of_out_ev {s : State} {e : Event} {n : Nat} (h : s.out = .ev e n) : noError s := by
  simp [noError, State.errorPort, h]

/-- With an event the event port shows its kind and length. -/
theorem eventPort_of_out_ev {s : State} {e : Event} {n : Nat} (h : s.out = .ev e n) :
    s.eventPort.valid = true ∧ s.eventPort.kind = eventKind e ∧ s.eventPort.len = BitVec.ofNat 8 n := by
  simp [State.eventPort, h]

/-! ## The obligations -/

/-- Settles O4: the state a step on this byte starts from is already in `Idle` and without output. -/
theorem idleSkipDiscardsTheByte : Obligations.IdleSkipDiscardsTheByte := by
  refine ⟨fun s b => rfl, fun s b rest hin hst hb => ?_⟩
  have hstep := step_eq_idleSkip hin hst hb
  have hnothing : (taken s rest).enter .idle = taken s rest := by
    rw [← hst]
    rfl
  refine ⟨hstep, hstep.trans ?_⟩
  calc exec (.idleSkip b) (taken s rest)
      = .next (((taken s rest).enter .idle).emit .none) := rfl
    _ = .next (taken s rest) := by rw [hnothing]; rfl

/-- Settles O5: the meaning is its record equation; the row is the sync byte's in `Idle`. -/
theorem idleSyncOpensAFrame : Obligations.IdleSyncOpensAFrame :=
  ⟨fun _ => rfl, fun _ _ hin hst => step_eq_idleSync hin hst⟩

/-- Settles O6: the meaning is its record equation; the row is that of a length from 1 to `CAP`. -/
theorem lenAcceptLoadsTheLength : Obligations.LenAcceptLoadsTheLength :=
  ⟨fun _ _ => rfl, fun _ _ _ hin hst hpos hcap => step_eq_lenAccept hin hst hpos hcap⟩

/-- Settles O7: the meaning is its record equation; the ports by the output it leaves. -/
theorem lenZeroCompletesAtOnce : Obligations.LenZeroCompletesAtOnce := by
  refine ⟨fun s => rfl, fun s rest hin hst => ?_⟩
  have hstep := step_eq_lenZero hin hst
  have hport {t : State} (hout : t.out = .ev .empty 0) :
      t.eventPort.valid = true ∧ t.eventPort.kind = 13#4 ∧ t.eventPort.len = 0#8 ∧ noError t := by
    obtain ⟨hvalid, hkind, hlen⟩ := eventPort_of_out_ev hout
    exact ⟨hvalid, hkind, hlen, noError_of_out_ev hout⟩
  exact ⟨hstep, _, hstep, hport rfl⟩

/-- Settles O8: the meaning is its record equation; the row is that of a length above `CAP`. -/
theorem lenOversizeRaisesFrameTooLarge : Obligations.LenOversizeRaisesFrameTooLarge :=
  ⟨fun _ _ => rfl, fun _ _ _ hin hst hcap => step_eq_lenOversize hin hst hcap⟩

/-- Settles O9: the store's one write, read back at the cursor and elsewhere; the other fields by their equations. -/
theorem payStoreStoresOneByte : Obligations.PayStoreStoresOneByte := by
  refine ⟨fun s b hroom => ⟨_, exec_payStore b hroom, ?_⟩, fun s b rest hin hst hmore => step_eq_payStore hin hst hmore⟩
  refine ⟨rfl, rfl, rfl, ?same, ?other, rfl, rfl, rfl, rfl, rfl, rfl⟩
  case same => exact Memory.read_write_same _ _ _
  case other => exact fun a ha => Memory.read_write_other _ _ ha

/-- Settles O10: the event by `exec_payComplete_emits`; the store as in `PAY-STORE`; the cursor reaches `expected`
because the last byte's row says so. -/
theorem payCompleteEmitsTheEvent : Obligations.PayCompleteEmitsTheEvent := by
  refine ⟨fun s b hroom => ⟨_, exec_payComplete_emits b hroom, ?_⟩, fun s b rest hcompleting => ?row⟩
  · refine ⟨rfl, rfl, rfl, rfl, ?same, ?other, rfl, rfl, rfl, rfl, rfl⟩
    case same => exact Memory.read_write_same _ _ _
    case other => exact fun a ha => Memory.read_write_other _ _ ha
  case row =>
    obtain ⟨hin, hst, hlast, -⟩ := hcompleting
    exact ⟨step_eq_payComplete hin hst hlast, add_one_eq_of_toNat hlast⟩

/-- Settles O11: the step answers next by the invariant, and then each row's own step equation says what `t` is. -/
theorem everyByteFollowsTheStepTable : Obligations.EveryByteFollowsTheStepTable := by
  refine ⟨fun s hin => ⟨_, step_none hin, rfl, rfl⟩, fun s b rest hinv hin => ?_⟩
  obtain ⟨t, hstep⟩ := step_rx_answers_next_of_inv hinv hin
  refine ⟨t, hstep, fun hst hb => ?idleSkip, fun hst hb => ?idleSync, fun hst hpos hcap => ?lenAccept,
    fun hst hb => ?lenZero, fun hst hcap => ?lenOversize, fun hst hmore => ?payStore, fun hst hlast => ?payComplete⟩
  case idleSkip =>
    obtain ⟨-, hskip⟩ := idleSkipDiscardsTheByte
    obtain ⟨-, hnext⟩ := hskip s b rest hin hst hb
    cases hnext.symm.trans hstep
    exact ⟨rfl, rfl⟩
  case idleSync =>
    subst hb
    cases (step_eq_idleSync hin hst).symm.trans hstep
    exact ⟨rfl, rfl⟩
  case lenAccept =>
    cases (step_eq_lenAccept hin hst hpos hcap).symm.trans hstep
    exact ⟨rfl, rfl⟩
  case lenZero =>
    subst hb
    cases (step_eq_lenZero hin hst).symm.trans hstep
    exact ⟨rfl, rfl⟩
  case lenOversize =>
    cases (step_eq_lenOversize hin hst hcap).symm.trans hstep
    exact ⟨rfl, rfl⟩
  case payStore =>
    cases (step_payStore_eq_next hin hst hmore (received_lt_cap_of_inv hinv hst)).symm.trans hstep
    refine ⟨rfl, rfl, toNat_add_one_of_lt (Nat.lt_of_succ_lt hmore), fun i => ?_, rfl⟩
    rw [emit_enter_bufByte, pushByte_bufByte_eq_frameByte, frameByte_taken]
  case payComplete =>
    cases (step_payComplete_eq_next hin hst hlast (received_lt_cap_of_inv hinv hst)).symm.trans hstep
    refine ⟨rfl, rfl, add_one_eq_of_toNat hlast, fun i => ?_, rfl⟩
    rw [emit_enter_bufByte, pushByte_bufByte_eq_frameByte, frameByte_taken]

end Sys2Proof.Proofs
end

section
/-!
The event decoder on the port (41_event_dispatch.md R140 to R153): the event that each type code gives, the state after
the byte that completes a payload, and the signals that its event port shows (10_state.md R37).
-/
namespace Sys2Proof.Proofs

open Sys2Proof Sys2Proof.Machine Sys2Proof.Claims

/-! ## A payload as the bytes at its offsets -/

/-- A list of bytes is the list of its bytes at the offsets below its length. -/
theorem map_getD_range_length (p : List Byte) : ((List.range p.length).map fun i => p.getD i 0#8) = p := by
  refine List.ext_getElem (by simp) fun i _ hi => ?_
  simp [List.getElem?_eq_getElem hi]

/-- The byte at an offset of a payload read from a buffer. -/
theorem map_range_getElem? {buf : Nat → Byte} {n k : Nat} (hk : k < ((List.range n).map buf).length) :
    ((List.range n).map buf)[k]? = some (buf k) := by
  rw [List.length_map, List.length_range] at hk
  simp [hk]

/-- A byte at an offset below the payload's length is the buffer's. -/
theorem atOffset_of_lt {n i : Nat} (hi : i < n) (draw : Nat) (buf : Nat → Byte) : atOffset draw n buf i = buf i :=
  if_pos hi

/-! ## `decode_event`, by type code (41_event_dispatch.md R141 to R152) -/

/-- A type code whose event has `ev_kind = kind` and is made of the payload bytes at offsets 1 and 2 alone. -/
structure DecodesAs (code : Byte) (kind : BitVec 4) (event : Byte → Byte → Event) : Prop where
  kind_eq : ∀ x y, eventKind (event x y) = kind
  decode_eq : ∀ (draw n : Nat) (buf : Nat → Byte), n ≠ 0 → buf 0 = code →
    decodeEvent draw n buf = event (atOffset draw n buf 1) (atOffset draw n buf 2)

/-- The type codes whose events have two arguments, with `ev_kind` and event (R141 to R145, R147, R148). -/
def twoArgumentRows : List (Byte × BitVec 4 × (Byte → Byte → Event)) :=
  [(52#8, 1#4, .membranePress), (53#8, 2#4, .membraneRelease), (54#8, 3#4, .switch), (55#8, 4#4, .sensorChange),
    (56#8, 5#4, .version), (62#8, 7#4, .correctMembrane), (63#8, 8#4, .correctSwitch)]

/-- The type codes whose events have one argument or none (R146, R149 to R151). -/
def shortRows : List (Byte × BitVec 4 × (Byte → Event)) :=
  [(58#8, 6#4, fun x => .onOffSwitch x), (64#8, 9#4, fun _ => .correctDone), (81#8, 10#4, fun _ => .connect),
    (82#8, 11#4, fun _ => .disconnect)]

/-- Each two-argument row is the branch of `decode_event` for its code. -/
theorem decodesAs_of_mem_twoArgumentRows {row : Byte × BitVec 4 × (Byte → Byte → Event)}
    (hrow : row ∈ twoArgumentRows) : DecodesAs row.1 row.2.1 row.2.2 := by
  simp only [twoArgumentRows, List.mem_cons, List.not_mem_nil, or_false] at hrow
  rcases hrow with rfl | rfl | rfl | rfl | rfl | rfl | rfl
  all_goals exact ⟨fun _ _ => rfl, fun draw n buf hn hcode => by simp [decodeEvent, hn, hcode]⟩

/-- Each row of one argument or none is the branch of `decode_event` for its code. -/
theorem decodesAs_of_mem_shortRows {row : Byte × BitVec 4 × (Byte → Event)} (hrow : row ∈ shortRows) :
    DecodesAs row.1 row.2.1 fun x _ => row.2.2 x := by
  simp only [shortRows, List.mem_cons, List.not_mem_nil, or_false] at hrow
  rcases hrow with rfl | rfl | rfl | rfl
  all_goals exact ⟨fun _ _ => rfl, fun draw n buf hn hcode => by simp [decodeEvent, hn, hcode]⟩

/-- The string is `payload[1 .. n)` (R152). -/
theorem decodeEvent_of_serialNumber {n : Nat} {buf : Nat → Byte} (hn : n ≠ 0) (hcode : buf 0 = 83#8) (draw : Nat) :
    decodeEvent draw n buf = .serialNumber ((List.range (n - 1)).map fun k => buf (k + 1)) := by
  simp [decodeEvent, hn, hcode]

/-- `Unhandled` carries the whole payload (R153). -/
theorem decodeEvent_of_untyped {n : Nat} {buf : Nat → Byte} (hn : n ≠ 0) (hcode : buf 0 ∉ typedCodes) (draw : Nat) :
    decodeEvent draw n buf = .unhandled (buf 0) ((List.range n).map buf) := by
  obtain ⟨m, rfl⟩ := Nat.exists_eq_succ_of_ne_zero hn
  exact decodeEvent_of_not_mem_typedCodes hcode draw m

/-! ## The signals of an event (10_state.md R37) -/

/-- With an event, `ev_type`, `ev_arg0`, `ev_arg1` and `ev_payload` are read from the buffer. -/
theorem eventPort_bytes_of_out_ev {s : State} {e : Event} {n : Nat} (h : s.out = .ev e n) :
    s.eventPort.type = s.portByte n 0 ∧ s.eventPort.arg0 = s.portByte n 1 ∧ s.eventPort.arg1 = s.portByte n 2 ∧
      s.eventPort.payload = s.portPayload n := by
  simp [State.eventPort, h]

/-- A port byte is the byte at that offset of the payload in the buffer. -/
theorem portByte_eq_atOffset (s : State) (n i : Nat) : s.portByte n i = atOffset s.draws n s.dec.bufByte i := rfl

/-- `ev_payload` shows the buffer below the event's length, where that is at most `CAP`. -/
theorem portPayload_getElem? {s : State} {n i : Nat} (hi : i < n) (hn : n ≤ s.cap) :
    (s.portPayload n)[i]? = some (s.dec.bufByte i) := by
  simp [State.portPayload, hi, hi.trans_le hn]

/-! ## The state after a completing byte (40_decoder_framing.md R117) -/

/-- The state after byte `b` has completed a payload: the byte stored, the decoder in `Idle`, the event output. -/
def completed (s : State) (b : Byte) (rest : List Input) : State :=
  (((taken s rest).pushByte b).enter .idle).emit
    (.ev (decodeEvent (s.draws + 1) s.dec.expected.toNat (frameByte s b)) s.dec.expected.toNat)

section Completed

variable {s : State} {b : Byte} {rest : List Input}

/-- The step on a completing byte. -/
theorem step_eq_completed (h : Completing s b rest) : step s = .next (completed s b rest) := by
  obtain ⟨hin, hst, hlast, hroom⟩ := h
  exact step_payComplete_eq_next hin hst hlast hroom

@[simp] theorem completed_cap : (completed s b rest).cap = s.cap := rfl
@[simp] theorem completed_st : (completed s b rest).dec.st = .idle := rfl
@[simp] theorem completed_expected : (completed s b rest).dec.expected = s.dec.expected := rfl

theorem completed_out (s : State) (b : Byte) (rest : List Input) : (completed s b rest).out =
    .ev (decodeEvent (completed s b rest).draws s.dec.expected.toNat (frameByte s b)) s.dec.expected.toNat := rfl

theorem completed_received (h : Completing s b rest) : (completed s b rest).dec.received = s.dec.expected :=
  add_one_eq_of_toNat h.last

@[simp] theorem completed_bufByte : (completed s b rest).dec.bufByte = frameByte s b := by
  rw [completed, emit_enter_bufByte, pushByte_bufByte_eq_frameByte]
  exact funext fun _ => rfl

/-- A payload that a byte completes has that byte at least. -/
theorem expected_ne_zero_of_completing (h : Completing s b rest) : s.dec.expected.toNat ≠ 0 := by
  rw [← h.last]
  exact Nat.succ_ne_zero _

theorem completed_noError : noError (completed s b rest) := noError_of_out_ev (completed_out s b rest)

theorem completed_port_valid : (completed s b rest).eventPort.valid = true := by
  obtain ⟨hvalid, -, -⟩ := eventPort_of_out_ev (completed_out s b rest)
  exact hvalid

/-- `ev_kind` is that of the event that is output. -/
theorem completed_port_kind {e : Event} {n : Nat} (hout : (completed s b rest).out = .ev e n) :
    (completed s b rest).eventPort.kind = eventKind e := by
  obtain ⟨-, hkind, -⟩ := eventPort_of_out_ev hout
  exact hkind

theorem completed_port_len : (completed s b rest).eventPort.len = s.dec.expected := by
  obtain ⟨-, -, hlen⟩ := eventPort_of_out_ev (completed_out s b rest)
  rw [hlen, BitVec.ofNat_toNat, BitVec.setWidth_eq]

/-- `ev_type` is the first payload byte, the type code. -/
theorem completed_port_type (h : Completing s b rest) :
    (completed s b rest).eventPort.type = frameByte s b 0 := by
  obtain ⟨htype, -, -, -⟩ := eventPort_bytes_of_out_ev (completed_out s b rest)
  rw [htype, portByte_eq_atOffset, completed_bufByte,
    atOffset_of_lt (Nat.pos_of_ne_zero (expected_ne_zero_of_completing h))]

/-- `ev_arg0` and `ev_arg1` are the payload bytes at offsets 1 and 2. -/
theorem completed_port_args (s : State) (b : Byte) (rest : List Input) :
    (completed s b rest).eventPort.arg0 =
        atOffset (completed s b rest).draws s.dec.expected.toNat (frameByte s b) 1 ∧
      (completed s b rest).eventPort.arg1 =
        atOffset (completed s b rest).draws s.dec.expected.toNat (frameByte s b) 2 := by
  obtain ⟨-, harg0, harg1, -⟩ := eventPort_bytes_of_out_ev (completed_out s b rest)
  rw [harg0, harg1, portByte_eq_atOffset, portByte_eq_atOffset, completed_bufByte]
  exact ⟨rfl, rfl⟩

/-- `ev_payload` shows the whole payload. -/
theorem completed_port_payload (hcap : s.dec.expected.toNat ≤ s.cap) {i : Nat} (hi : i < s.dec.expected.toNat) :
    (completed s b rest).eventPort.payload[i]? = some (frameByte s b i) := by
  obtain ⟨-, -, -, hpayload⟩ := eventPort_bytes_of_out_ev (completed_out s b rest)
  rw [hpayload, portPayload_getElem? hi (completed_cap.symm ▸ hcap), completed_bufByte]

/-- The output and the ports for a type code whose event is made of the bytes at offsets 1 and 2. -/
theorem completed_of_decodesAs {code : Byte} {kind : BitVec 4} {event : Byte → Byte → Event}
    (hdecodes : DecodesAs code kind event) (h : Completing s b rest) (hcode : frameByte s b 0 = code) :
    (completed s b rest).out =
        .ev (event (atOffset (completed s b rest).draws s.dec.expected.toNat (frameByte s b) 1)
          (atOffset (completed s b rest).draws s.dec.expected.toNat (frameByte s b) 2)) s.dec.expected.toNat ∧
      (completed s b rest).eventPort.valid = true ∧ (completed s b rest).eventPort.kind = kind ∧
      (completed s b rest).eventPort.type = code ∧
      (completed s b rest).eventPort.arg0 =
        atOffset (completed s b rest).draws s.dec.expected.toNat (frameByte s b) 1 ∧
      (completed s b rest).eventPort.arg1 =
        atOffset (completed s b rest).draws s.dec.expected.toNat (frameByte s b) 2 ∧
      (completed s b rest).eventPort.len = s.dec.expected ∧ noError (completed s b rest) := by
  have hout := completed_out s b rest
  rw [hdecodes.decode_eq _ _ _ (expected_ne_zero_of_completing h) hcode] at hout
  have hkind := (completed_port_kind hout).trans (hdecodes.kind_eq _ _)
  obtain ⟨harg0, harg1⟩ := completed_port_args s b rest
  exact ⟨hout, completed_port_valid, hkind, (completed_port_type h).trans hcode, harg0, harg1, completed_port_len,
    completed_noError⟩

end Completed

/-! ## The obligations -/

/-- Settles O15: a payload is the buffer of its own bytes, for which the event decoder runs `decode_event`. -/
theorem eventDecoderFollowsTheTypeTable : Obligations.EventDecoderFollowsTheTypeTable := by
  intro p s
  have hrun := exec_selectEvent_eq_decodeEvent s p.length fun i => p.getD i 0#8
  rw [map_getD_range_length] at hrun
  exact hrun

/-- Settles O20: each code is a row of two arguments. -/
theorem twoArgumentEventsOnThePort : Obligations.TwoArgumentEventsOnThePort := by
  intro row hrow s b rest hcompleting hcode
  exact ⟨completed s b rest, step_eq_completed hcompleting,
    completed_of_decodesAs (decodesAs_of_mem_twoArgumentRows hrow) hcompleting hcode⟩

/-- Settles O21: each code is a row of one argument or none; the decoder is as any completing step leaves it. -/
theorem oneAndNoArgumentEventsOnThePort : Obligations.OneAndNoArgumentEventsOnThePort := by
  intro row hrow s b rest hcompleting hcode
  obtain ⟨hout, hports⟩ := completed_of_decodesAs (decodesAs_of_mem_shortRows hrow) hcompleting hcode
  exact ⟨completed s b rest, step_eq_completed hcompleting, hout, completed_st, completed_expected,
    completed_received hcompleting, congrFun completed_bufByte, hports⟩

/-- Settles O22: the string is `payload[1 .. n)`, so the port's argument bytes are its first two characters where the
payload reaches that far. -/
theorem serialNumberOnThePort : Obligations.SerialNumberOnThePort := by
  intro s b rest hcompleting hcap hcode
  have hn := expected_ne_zero_of_completing hcompleting
  have hout := completed_out s b rest
  rw [decodeEvent_of_serialNumber hn hcode] at hout
  obtain ⟨harg0, harg1⟩ := completed_port_args s b rest
  refine ⟨completed s b rest, _, step_eq_completed hcompleting, hout, ?length, fun k hk => map_range_getElem? hk,
    completed_port_valid, completed_port_kind hout, (completed_port_type hcompleting).trans hcode, completed_port_len,
    fun hlength => ?first, fun hlength => ?second, fun i hi => completed_port_payload hcap hi, completed_noError⟩
  case length =>
    rw [List.length_map, List.length_range]
    exact Nat.sub_one_add_one hn
  case first =>
    rw [List.length_map, List.length_range] at hlength
    rw [harg0, atOffset_of_lt (by omega)]
  case second =>
    rw [List.length_map, List.length_range] at hlength
    rw [harg1, atOffset_of_lt (by omega)]

/-- Settles O23: a code outside the twelve gives the whole payload raw. -/
theorem unhandledOnThePort : Obligations.UnhandledOnThePort := by
  intro s b rest hcompleting hcap hcode
  have hout := completed_out s b rest
  rw [decodeEvent_of_untyped (expected_ne_zero_of_completing hcompleting) hcode] at hout
  refine ⟨completed s b rest, _, step_eq_completed hcompleting, hout, ?length, fun k hk => map_range_getElem? hk,
    completed_port_valid, completed_port_kind hout, completed_port_type hcompleting, completed_port_len,
    fun i hi => completed_port_payload hcap hi, completed_noError⟩
  case length => rw [List.length_map, List.length_range]

/-- Settles O17: a missing argument is the operand that the model reads past the payload's end. -/
theorem shortPayloadsKeepTheirVariant : Obligations.ShortPayloadsKeepTheirVariant := fun s x =>
  ⟨⟨secondArg s [x], rfl⟩, ⟨firstArg s [], secondArg s [], rfl⟩,
    ⟨secondArg s [x], rfl⟩, ⟨firstArg s [], secondArg s [], rfl⟩,
    ⟨secondArg s [x], rfl⟩, ⟨firstArg s [], secondArg s [], rfl⟩,
    ⟨secondArg s [x], rfl⟩, ⟨firstArg s [], secondArg s [], rfl⟩,
    ⟨secondArg s [x], rfl⟩, ⟨firstArg s [], secondArg s [], rfl⟩,
    ⟨secondArg s [x], rfl⟩, ⟨firstArg s [], secondArg s [], rfl⟩,
    ⟨secondArg s [x], rfl⟩, ⟨firstArg s [], secondArg s [], rfl⟩,
    ⟨firstArg s [], rfl⟩⟩

/-- Settles O31: an event variant only emits and a command only presents its frame, and neither touches `dec`. -/
theorem eventsAndCommandsLeaveTheDecoder : Obligations.EventsAndCommandsLeaveTheDecoder := by
  intro i s t hexec
  refine ⟨fun hfamily => ?event, fun hfamily => ?command⟩
  case event =>
    obtain ⟨e, n, hemit⟩ := exec_event hfamily s
    cases hemit.symm.trans hexec
    exact ⟨rfl, fun a => by rw [emit_dec]⟩
  case command =>
    cases (exec_command hfamily s).symm.trans hexec
    exact ⟨rfl, fun a => by rw [presentFrame_dec]⟩

end Sys2Proof.Proofs
end

section
/-!
The Command Encoder (42_command_encoder.md R170 to R192): one equation for the frame of every command, and the raw
opcode port over it.
-/
namespace Sys2Proof.Proofs

open Sys2Proof Sys2Proof.Machine Sys2Proof.Claims

/-! ## The command table (30_encoding.md R89 to R91) -/

theorem mem_commandNames (c : CommandName) : c ∈ commandNames := by cases c <;> decide

/-- The opcodes in the table's order are the run 1 to 18 and then 40. -/
theorem map_opcode_commandNames : (commandNames.map fun c => (opcode c).toNat) = List.range' 1 18 ++ [40] := rfl

/-- The opcodes are the numbers 1 to 18 and 40. -/
theorem exists_opcode_eq_iff {op : Byte} :
    (∃ c, opcode c = op) ↔ (1 ≤ op.toNat ∧ op.toNat ≤ 18) ∨ op.toNat = 40 := by
  have htable : (∃ c, opcode c = op) ↔ op.toNat ∈ commandNames.map fun c => (opcode c).toNat := by
    simp only [List.mem_map, mem_commandNames, true_and, BitVec.toNat_inj]
  rw [htable, map_opcode_commandNames, List.mem_append, List.mem_range'_1, List.mem_singleton]
  omega

theorem opcode_injective : Function.Injective opcode := fun c c' h =>
  Option.some.inj <| calc
    some c = commandOfOpcode (opcode c) := (commandOfOpcode_opcode c).symm
    _ = commandOfOpcode (opcode c') := by rw [h]
    _ = some c' := commandOfOpcode_opcode c'

/-- Only `SetLed` and `SetTone` take arguments (R89). -/
theorem argCount_eq (c : CommandName) : argCount c = if c = .setLed then 2 else if c = .setTone then 3 else 0 := by
  cases c <;> rfl

theorem argCount_eq_zero {c : CommandName} (hled : c ≠ .setLed) (htone : c ≠ .setTone) : argCount c = 0 := by
  rw [argCount_eq, if_neg hled, if_neg htone]

theorem argCount_le_three (c : CommandName) : argCount c ≤ 3 := by cases c <;> decide

/-! ## The frame of a command (42_command_encoder.md R170) -/

section Frames

variable (c : CommandName) (a0 a1 a2 : Byte) (s : State)

/-- A command's frame carries the first `argCount` of the three argument bytes. -/
theorem encode_commandWithArgs :
    encode (commandWithArgs c a0 a1 a2) = commandFrame c ([a0, a1, a2].take (argCount c)) := by
  cases c <;> rfl

theorem commandFrame_length (args : List Byte) : (commandFrame c args).length = args.length + 3 := by
  simp [commandFrame]

theorem commandWithArgs_family : (commandWithArgs c a0 a1 a2).family = .command := by cases c <;> rfl

/-- Every command presents its frame and does nothing else. -/
theorem exec_commandWithArgs :
    exec (commandWithArgs c a0 a1 a2) s =
      .next (s.presentFrame (commandFrame c ([a0, a1, a2].take (argCount c)))) := by
  rw [exec_command (commandWithArgs_family c a0 a1 a2), encode_commandWithArgs]

variable {c}

/-- The frame of a command without arguments is the three bytes `FF 01 opcode`. -/
theorem presentFrame_of_argCount_eq_zero (h : argCount c = 0) (args : List Byte) :
    s.presentFrame (commandFrame c (args.take (argCount c))) = after3 (opcode c) s := by
  have hframe : commandFrame c (args.take (argCount c)) = [0xFF#8, 1#8, opcode c] := by
    rw [commandFrame, h]
    rfl
  rw [hframe]
  rfl

theorem exec_of_argCount_eq_zero (h : argCount c = 0) :
    exec (commandWithArgs c a0 a1 a2) s = .next (after3 (opcode c) s) := by
  rw [exec_commandWithArgs, presentFrame_of_argCount_eq_zero s h]

end Frames

/-! ## The raw opcode port (42_command_encoder.md R192) -/

section Port

variable {s : State} {op a0 a1 a2 : Byte} {rest : List Input}

theorem selectCommand_opcode (c : CommandName) (a0 a1 a2 : Byte) :
    selectCommand (opcode c) a0 a1 a2 = some (commandWithArgs c a0 a1 a2) := by
  rw [selectCommand, commandOfOpcode_opcode, Option.map_some]

theorem selectCommand_eq_none (h : ¬ ∃ c, opcode c = op) (a0 a1 a2 : Byte) : selectCommand op a0 a1 a2 = none := by
  rw [Option.eq_none_iff_forall_ne_some]
  intro i hi
  obtain ⟨c, hc, -⟩ := selectCommand_some hi
  exact h ⟨c, hc⟩

theorem encodeRaw_opcode (c : CommandName) (a0 a1 a2 : Byte) :
    encodeRaw (opcode c) a0 a1 a2 = EncoderPort.ofFrame (commandFrame c ([a0, a1, a2].take (argCount c))) := by
  simp only [encodeRaw, selectCommand_opcode, encode_commandWithArgs]

theorem encodeRaw_eq_nothing (h : ¬ ∃ c, opcode c = op) (a0 a1 a2 : Byte) :
    encodeRaw op a0 a1 a2 = EncoderPort.nothing := by
  simp only [encodeRaw, selectCommand_eq_none h]

/-- A step on an opcode of the table presents that command's frame. -/
theorem step_cmd_opcode {c : CommandName} (hin : s.inputs = .cmd (opcode c) a0 a1 a2 :: rest) :
    step s = .next ((s.advance rest).presentFrame (commandFrame c ([a0, a1, a2].take (argCount c)))) := by
  rw [step_cmd hin, runCommand_of_select (selectCommand_opcode c a0 a1 a2), exec_commandWithArgs]

/-- A step on any other opcode is refused at the port. -/
theorem step_cmd_refused (h : ¬ ∃ c, opcode c = op) (hin : s.inputs = .cmd op a0 a1 a2 :: rest) :
    step s = .next (s.advance rest).refuseOpcode := by
  rw [step_cmd hin, runCommand, selectCommand_eq_none h]

end Port

/-! ## The obligations -/

/-- Settles O24: each of the nine takes no arguments. -/
theorem commandsOneToElevenPresentTheirFrames : Obligations.CommandsOneToElevenPresentTheirFrames := by
  intro s
  have hexec (c : CommandName) (h : argCount c = 0) := exec_of_argCount_eq_zero 0#8 0#8 0#8 s h
  exact ⟨hexec .getVersion rfl, hexec .scan rfl, hexec .getEvent rfl, hexec .init rfl, hexec .eepromRead rfl,
    hexec .eepromWrite rfl, hexec .getOnOff rfl, hexec .getCorrect rfl, hexec .eepromReadByte rfl⟩

/-- Settles O25: each of the eight takes no arguments. -/
theorem commandsTwelveToFortyPresentTheirFrames : Obligations.CommandsTwelveToFortyPresentTheirFrames := by
  intro s
  have hexec (c : CommandName) (h : argCount c = 0) := exec_of_argCount_eq_zero 0#8 0#8 0#8 s h
  exact ⟨hexec .resetDevice rfl, hexec .startAuto rfl, hexec .stopAuto rfl, hexec .allLeds rfl,
    hexec .startOutput rfl, hexec .stopOutput rfl, hexec .allSensors rfl, hexec .getSerialNumber rfl⟩

/-- Settles O26: the frames of `SetLed` and `SetTone` carry their two and three arguments. -/
theorem setLedAndSetTonePresentTheirArguments : Obligations.SetLedAndSetTonePresentTheirArguments :=
  fun s a b c => ⟨exec_commandWithArgs .setLed a b c s, exec_commandWithArgs .setTone a b c s⟩

/-- Settles O28: the frame's length is that of its arguments and three bytes more. -/
theorem commandFramesAreThreeFiveOrSixBytes : Obligations.CommandFramesAreThreeFiveOrSixBytes := by
  intro c a0 a1 a2
  have hframe := encode_commandWithArgs c a0 a1 a2
  refine ⟨hframe, ?length, argCount_eq c⟩
  case length =>
    rw [hframe, commandFrame_length, List.length_take_of_le (argCount_le_three c)]

/-- Settles O27: an opcode of the table presents its command's frame, three bytes unless the command is `SetLed` or
`SetTone`; any other opcode lies outside 1 to 18 and 40 and is refused. -/
theorem rawOpcodePortEncodesOrRefuses : Obligations.RawOpcodePortEncodesOrRefuses := by
  intro s op a0 a1 a2 rest hin
  by_cases hop : ∃ c, opcode c = op
  · have hrange := exists_opcode_eq_iff.mp hop
    obtain ⟨c, rfl⟩ := hop
    refine ⟨_, step_cmd_opcode hin, rfl, rfl, rfl, rfl, (encodeRaw_opcode c a0 a1 a2).symm, fun hled => ?led,
      fun htone => ?tone, fun hother => ?noArguments, fun hrefused => ?refused⟩
    case led =>
      cases opcode_injective (a₂ := .setLed) hled
      exact ⟨rfl, rfl⟩
    case tone =>
      cases opcode_injective (a₂ := .setTone) htone
      exact ⟨rfl, rfl⟩
    case noArguments =>
      have hargs : argCount c = 0 := by
        refine argCount_eq_zero ?_ ?_ <;> rintro rfl <;> exact absurd hother (by decide)
      rw [presentFrame_of_argCount_eq_zero _ hargs]
      exact ⟨rfl, rfl⟩
    case refused => omega
  · have hrange := mt exists_opcode_eq_iff.mpr hop
    refine ⟨_, step_cmd_refused hop hin, rfl, rfl, rfl, rfl, (encodeRaw_eq_nothing hop a0 a1 a2).symm,
      fun hled => ?led, fun htone => ?tone, fun hother => ?noArguments, fun _ => ⟨rfl, rfl⟩⟩
    case led => exact absurd ⟨.setLed, hled.symm⟩ hop
    case tone => exact absurd ⟨.setTone, htone.symm⟩ hop
    case noArguments => bv_omega

end Sys2Proof.Proofs
end

section
/-!
The codec's one error (60_exceptions.md R201): which steps raise `FrameTooLarge`, and what they leave.
-/
namespace Sys2Proof.Proofs

open Sys2Proof Sys2Proof.Machine Sys2Proof.Claims

/-! ## Where an error output comes from -/

/-- Of the seven byte-steps only `LEN-OVERSIZE` outputs an error (R201: "nothing else raises it"): `LEN-ZERO` and
`PAY-COMPLETE` output an event, and the other four nothing. -/
theorem oversizedLength_of_runByte_out_err {s t : State} {b n : Byte} {e : CodecError} (h : runByte b s = .next t)
    (hout : t.out = .err e n) : s.dec.st = .awaitLength ∧ s.cap < b.toNat := by
  obtain ⟨i, hselect, hexec⟩ := runByte_eq_next h
  rcases selectByte_cases hselect with ⟨-, -, rfl⟩ | ⟨-, -, rfl⟩ | ⟨-, -, rfl⟩ | ⟨-, -, -, rfl⟩ | ⟨hst, hcap, -⟩ |
    ⟨-, -, rfl⟩ | ⟨-, -, rfl⟩
  · -- IDLE-SYNC
    cases hexec
    cases hout
  · -- IDLE-SKIP
    cases hexec
    cases hout
  · -- LEN-ZERO
    cases hexec
    cases hout
  · -- LEN-ACCEPT
    cases hexec
    cases hout
  · -- LEN-OVERSIZE
    exact ⟨hst, hcap⟩
  · -- PAY-STORE
    obtain ⟨-, rfl⟩ := exec_payStore_eq_next hexec
    cases hout
  · -- PAY-COMPLETE
    obtain ⟨-, event, rfl⟩ := exec_payComplete_eq_next hexec
    cases hout

/-- A step outputs an error only on a byte above `CAP` in `AwaitLength`: with no input, on a command and on reset there
is no output at all. -/
theorem oversizedLength_of_step_out_err {s t : State} {n : Byte} {e : CodecError} (h : step s = .next t)
    (hout : t.out = .err e n) :
    ∃ b rest, s.inputs = .rx b :: rest ∧ s.dec.st = .awaitLength ∧ s.cap < b.toNat := by
  match hin : s.inputs with
  | [] =>
    cases (step_none hin).symm.trans h
    cases hout
  | .rx b :: rest =>
    rw [step_rx hin] at h
    exact ⟨b, rest, rfl, oversizedLength_of_runByte_out_err (s := s.advance rest) h hout⟩
  | .cmd op a0 a1 a2 :: rest =>
    obtain ⟨-, hnone⟩ := step_cmd_decoder hin h
    cases hnone.symm.trans hout
  | .reset :: rest =>
    cases (step_reset hin).symm.trans h
    cases hout

/-! ## What raising it leaves (R205) -/

/-- A length byte above `CAP` raises the error in the state the step starts from. -/
theorem step_eq_raiseFrameTooLarge {s : State} {b : Byte} {rest : List Input} (hin : s.inputs = .rx b :: rest)
    (hst : s.dec.st = .awaitLength) (hcap : s.cap < b.toNat) :
    step s = .next (raiseFrameTooLarge b (taken s rest)) :=
  step_eq_lenOversize hin hst hcap

/-- With an error the error port shows its code and the length byte (10_state.md R38). -/
theorem errorPort_of_out_err {s : State} {e : CodecError} {n : Byte} (h : s.out = .err e n) :
    s.errorPort.valid = true ∧ s.errorPort.code = errorCode e ∧ s.errorPort.len = n := by
  simp [State.errorPort, h]

/-! ## The obligation -/

/-- Settles O14: an error output comes from an oversized length only, and the step on one raises the error, whose record
equation gives the output and the decoder, and the output the port. -/
theorem frameTooLargeExactlyOnAnOversizedLength : Obligations.FrameTooLargeExactlyOnAnOversizedLength := by
  intro s t hstep
  have hraised {b : Byte} {rest : List Input} (hin : s.inputs = .rx b :: rest) (hst : s.dec.st = .awaitLength)
      (hcap : s.cap < b.toNat) : t.out = .err .frameTooLarge b ∧ t.dec = { s.dec with st := .idle } := by
    cases (step_eq_raiseFrameTooLarge hin hst hcap).symm.trans hstep
    exact ⟨rfl, rfl⟩
  refine ⟨⟨?onlyThere, ?there⟩, fun b rest hin hst hcap => ?outputs⟩
  case onlyThere =>
    rintro ⟨e, n, hout⟩
    exact oversizedLength_of_step_out_err hstep hout
  case there =>
    rintro ⟨b, rest, hin, hst, hcap⟩
    obtain ⟨hout, -⟩ := hraised hin hst hcap
    exact ⟨_, _, hout⟩
  case outputs =>
    obtain ⟨hout, hdec⟩ := hraised hin hst hcap
    obtain ⟨hvalid, hcode, hlen⟩ := errorPort_of_out_err hout
    exact ⟨hout, hvalid, hcode, hlen, hdec⟩

end Sys2Proof.Proofs
end

section
/-!
Reset presented to a running instance (70_reset_and_hazards.md R230, R231): the decoder is the one after power-on,
whatever frame was under way, and the encoder's side is not touched.
-/
namespace Sys2Proof.Proofs

open Sys2Proof Sys2Proof.Machine

/-- R230: reset acts on the decoder and the output alone, so the rest is as the step's own `advance` leaves it. -/
theorem applyReset_advance_frame (s : State) (rest : List Input) :
    (s.advance rest).applyReset.enc = s.enc ∧ (s.advance rest).applyReset.tx = s.tx ∧
      (s.advance rest).applyReset.cap = s.cap ∧ (s.advance rest).applyReset.inputs = rest := by
  simp only [applyReset_enc, applyReset_tx, applyReset_cap, applyReset_inputs, advance_enc, advance_tx, advance_cap,
    advance_inputs, and_self]

/-- Settles O2: the step's decoder is `DecoderState.reset` from every state, with no output, and the frame of reset
gives the rest. -/
theorem resetDiscardsAPartialFrame : Obligations.ResetDiscardsAPartialFrame := by
  intro s rest hin
  refine ⟨_, step_reset hin, ?_⟩
  rw [applyReset_dec]
  exact ⟨reset_st, reset_received, reset_expected, reset_buf_read, applyReset_out _, applyReset_advance_frame s rest⟩

end Sys2Proof.Proofs
end

section
/-!
The decoder and the encoder against each other (30_encoding.md R80 to R93): for each of the three sources one lemma that
decodes what is encoded and one that says what decoded bytes were.
-/
namespace Sys2Proof.Proofs

open Sys2Proof Sys2Proof.Machine Sys2Proof.Claims

/-! ## Incoming frames (R80 to R88) -/

/-- A byte that carries a length has that length's value. -/
theorem toNat_ofNat_of_le {n : Nat} (h : n ≤ 255) : (BitVec.ofNat 8 n).toNat = n := Nat.mod_eq_of_lt (by omega)

theorem encode_eventWithArgs (e : EventName) (args : List Byte) :
    encode (eventWithArgs e args) = payloadFrame (typeCode e :: args) := by
  cases e <;> rfl

theorem wellFormed_eventWithArgs (cap : Nat) (e : EventName) (args : List Byte) :
    (eventWithArgs e args).wellFormed cap = payloadFits cap args := by
  cases e <;> rfl

/-- The variant that a payload selects encodes to the payload's frame. -/
theorem encode_selectEvent (p : List Byte) : encode (selectEvent p) = payloadFrame p := by
  cases p with
  | nil => rfl
  | cons t args =>
    cases hcode : eventOfCode t with
    | some e => rw [selectEvent_of_typed hcode, encode_eventWithArgs, eventOfCode_some hcode]
    | none =>
      rw [selectEvent_of_untyped hcode]
      rfl

/-- The variant that a payload selects is well-formed where the payload fits the buffer. -/
theorem wellFormed_selectEvent {cap : Nat} {p : List Byte} (h : p.length ≤ cap) :
    (selectEvent p).wellFormed cap = true := by
  cases p with
  | nil => rfl
  | cons t args =>
    have hfits : payloadFits cap args = true := decide_eq_true h
    cases hcode : eventOfCode t with
    | some e => rw [selectEvent_of_typed hcode, wellFormed_eventWithArgs, hfits]
    | none =>
      rw [selectEvent_of_untyped hcode]
      simp only [Instr.wellFormed, hfits, hcode, Option.isNone_none, Bool.and_true]

/-- The event variants are `Empty`, `Unhandled` and the typed ones. -/
theorem eq_of_family_event {i : Instr} (h : i.family = .event) :
    i = .empty ∨ (∃ t args, i = .unhandled t args) ∨ ∃ e args, i = eventWithArgs e args := by
  cases i with
  | empty => exact .inl rfl
  | unhandled t args => exact .inr (.inl ⟨t, args, rfl⟩)
  | membranePress args => exact .inr (.inr ⟨.membranePress, args, rfl⟩)
  | membraneRelease args => exact .inr (.inr ⟨.membraneRelease, args, rfl⟩)
  | switch args => exact .inr (.inr ⟨.switch, args, rfl⟩)
  | sensorChange args => exact .inr (.inr ⟨.sensorChange, args, rfl⟩)
  | version args => exact .inr (.inr ⟨.version, args, rfl⟩)
  | onOffSwitch args => exact .inr (.inr ⟨.onOffSwitch, args, rfl⟩)
  | correctMembrane args => exact .inr (.inr ⟨.correctMembrane, args, rfl⟩)
  | correctSwitch args => exact .inr (.inr ⟨.correctSwitch, args, rfl⟩)
  | correctDone args => exact .inr (.inr ⟨.correctDone, args, rfl⟩)
  | connect args => exact .inr (.inr ⟨.connect, args, rfl⟩)
  | disconnect args => exact .inr (.inr ⟨.disconnect, args, rfl⟩)
  | serialNumber chars => exact .inr (.inr ⟨.serialNumber, chars, rfl⟩)
  | _ => cases h

/-- Every well-formed event variant is the one that some payload of an accepted length selects. -/
theorem exists_payload_of_wellFormed {cap : Nat} {i : Instr} (hfamily : i.family = .event)
    (hwf : i.wellFormed cap = true) : ∃ p, i = selectEvent p ∧ p.length ≤ cap := by
  rcases eq_of_family_event hfamily with rfl | ⟨t, args, rfl⟩ | ⟨e, args, rfl⟩
  · exact ⟨[], rfl, Nat.zero_le _⟩
  · simp only [Instr.wellFormed, Bool.and_eq_true, Option.isNone_iff_eq_none] at hwf
    obtain ⟨hfits, hcode⟩ := hwf
    exact ⟨t :: args, (selectEvent_of_untyped hcode args).symm, of_decide_eq_true hfits⟩
  · rw [wellFormed_eventWithArgs] at hwf
    exact ⟨typeCode e :: args, (selectEvent_of_typed (eventOfCode_typeCode e) args).symm, of_decide_eq_true hwf⟩

/-- A payload's frame decodes to the variant the payload selects, and its length byte says where it ends. -/
theorem decode_payloadFrame {cap : Nat} {p : List Byte} (hcap : cap ≤ 255) (hp : p.length ≤ cap)
    (rest : List Byte) : decode (.frame cap) (payloadFrame p ++ rest) = .ok (selectEvent p, rest) := by
  have hlen := toNat_ofNat_of_le (hp.trans hcap)
  simp [decode, payloadFrame, decodeFrame, exceedsCap, hlen, Nat.not_lt.mpr hp]

/-- What a frame that decodes was: a header with an accepted length and a payload of that length. -/
theorem decode_frame_eq_ok {cap : Nat} {bs rest : List Byte} {i : Instr} (h : decode (.frame cap) bs = .ok (i, rest)) :
    ∃ p, bs = payloadFrame p ++ rest ∧ i = selectEvent p ∧ p.length ≤ cap := by
  match bs with
  | [] | [_] => cases h
  | s :: len :: body =>
    simp only [decode, decodeFrame] at h
    split_ifs at h with hsync hover hshort
    cases h
    simp only [ne_eq, not_not] at hsync
    subst hsync
    simp only [exceedsCap, decide_eq_true_eq, Nat.not_lt] at hover
    have hlen : (body.take len.toNat).length = len.toNat := List.length_take_of_le (Nat.le_of_not_lt hshort)
    refine ⟨body.take len.toNat, ?_, rfl, hlen.trans_le hover⟩
    rw [payloadFrame, hlen, BitVec.ofNat_toNat, BitVec.setWidth_eq, List.cons_append, List.cons_append,
      List.take_append_drop]

/-- Settles O46: a well-formed variant's encoding is the frame of its payload. -/
theorem eventFramesDecodeBack : Obligations.EventFramesDecodeBack := by
  intro cap i rest hcap hfamily hwf
  obtain ⟨p, rfl, hp⟩ := exists_payload_of_wellFormed hfamily hwf
  rw [encode_selectEvent]
  exact decode_payloadFrame hcap hp rest

/-! ## Outgoing frames (R89 to R91) -/

/-- A command reads the first `argCount` argument bytes only. -/
theorem commandWithArgs_congr {c : CommandName} {a0 a1 a2 b0 b1 b2 : Byte}
    (h : [a0, a1, a2].take (argCount c) = [b0, b1, b2].take (argCount c)) :
    commandWithArgs c a0 a1 a2 = commandWithArgs c b0 b1 b2 := by
  cases c with
  | setLed =>
    cases h
    rfl
  | setTone =>
    cases h
    rfl
  | _ => rfl

/-- Every command is one of the table with argument bytes. -/
theorem eq_of_family_command {i : Instr} (h : i.family = .command) : ∃ c a0 a1 a2, i = commandWithArgs c a0 a1 a2 := by
  cases i with
  | setLed num state => exact ⟨.setLed, num, state, 0#8, rfl⟩
  | setTone freq dur vol => exact ⟨.setTone, freq, dur, vol, rfl⟩
  | getVersion => exact ⟨.getVersion, 0#8, 0#8, 0#8, rfl⟩
  | scan => exact ⟨.scan, 0#8, 0#8, 0#8, rfl⟩
  | getEvent => exact ⟨.getEvent, 0#8, 0#8, 0#8, rfl⟩
  | init => exact ⟨.init, 0#8, 0#8, 0#8, rfl⟩
  | eepromRead => exact ⟨.eepromRead, 0#8, 0#8, 0#8, rfl⟩
  | eepromWrite => exact ⟨.eepromWrite, 0#8, 0#8, 0#8, rfl⟩
  | getOnOff => exact ⟨.getOnOff, 0#8, 0#8, 0#8, rfl⟩
  | getCorrect => exact ⟨.getCorrect, 0#8, 0#8, 0#8, rfl⟩
  | eepromReadByte => exact ⟨.eepromReadByte, 0#8, 0#8, 0#8, rfl⟩
  | resetDevice => exact ⟨.resetDevice, 0#8, 0#8, 0#8, rfl⟩
  | startAuto => exact ⟨.startAuto, 0#8, 0#8, 0#8, rfl⟩
  | stopAuto => exact ⟨.stopAuto, 0#8, 0#8, 0#8, rfl⟩
  | allLeds => exact ⟨.allLeds, 0#8, 0#8, 0#8, rfl⟩
  | startOutput => exact ⟨.startOutput, 0#8, 0#8, 0#8, rfl⟩
  | stopOutput => exact ⟨.stopOutput, 0#8, 0#8, 0#8, rfl⟩
  | allSensors => exact ⟨.allSensors, 0#8, 0#8, 0#8, rfl⟩
  | getSerialNumber => exact ⟨.getSerialNumber, 0#8, 0#8, 0#8, rfl⟩
  | _ => cases h

/-- The first three bytes of a list, read by offset, are its first bytes up to any length it has. -/
theorem take_getD_three {n : Nat} {l : List Byte} (hn : n ≤ 3) (hl : n ≤ l.length) :
    [l.getD 0 0#8, l.getD 1 0#8, l.getD 2 0#8].take n = l.take n := by
  refine List.ext_getElem (by simp [hn, hl]) fun k hk _ => ?_
  rw [List.length_take_of_le hn] at hk
  have hk3 : k < 3 := hk.trans_le hn
  rw [List.getElem_take, List.getElem_take]
  have hget : l.getD k 0#8 = l[k] := by simp [hk.trans_le hl]
  interval_cases k <;> exact hget

/-- A frame with an opcode of the table, that command's length byte and its arguments decodes to the command. -/
theorem decode_commandFrame (c : CommandName) (a0 a1 a2 : Byte) (rest : List Byte) :
    decode .command (commandFrame c ([a0, a1, a2].take (argCount c)) ++ rest) =
      .ok (commandWithArgs c a0 a1 a2, rest) := by
  have hthree := argCount_le_three c
  have hlen := toNat_ofNat_of_le (n := argCount c + 1) (by omega)
  have hargs : ([a0, a1, a2].take (argCount c)).length = argCount c := List.length_take_of_le hthree
  have hbody : argCount c ≤ ([a0, a1, a2].take (argCount c) ++ rest).length := by
    rw [List.length_append, hargs]
    exact Nat.le_add_right _ _
  have hsame := take_getD_three hthree hbody
  rw [List.take_left' hargs] at hsame
  have hcommand := commandWithArgs_congr hsame
  have hdrop : ([a0, a1, a2].take (argCount c) ++ rest).drop (argCount c) = rest := List.drop_left' hargs
  simp only [commandFrame, List.cons_append, List.nil_append, decode, decodeCommand, ne_eq, not_true_eq_false, if_false,
    commandOfOpcode_opcode, hlen, Nat.not_lt.mpr hbody, hcommand, hdrop]

/-- What an outgoing frame that decodes was: the frame of a command of the table. -/
theorem decode_command_eq_ok {bs rest : List Byte} {i : Instr} (h : decode .command bs = .ok (i, rest)) :
    ∃ c a0 a1 a2, i = commandWithArgs c a0 a1 a2 ∧
      bs = commandFrame c ([a0, a1, a2].take (argCount c)) ++ rest := by
  match bs with
  | [] | [_] | [_, _] => cases h
  | s :: len :: op :: body =>
    simp only [decode, decodeCommand] at h
    split_ifs at h with hsync
    simp only [ne_eq, not_not] at hsync
    subst hsync
    cases hop : commandOfOpcode op with
    | none =>
      rw [hop] at h
      cases h
    | some c =>
      rw [hop] at h
      cases commandOfOpcode_some hop
      simp only at h
      split_ifs at h with hlen hshort
      cases h
      refine ⟨c, _, _, _, rfl, ?_⟩
      have hlength : len = BitVec.ofNat 8 (argCount c + 1) := by
        rw [← not_not.mp hlen, BitVec.ofNat_toNat, BitVec.setWidth_eq]
      rw [take_getD_three (argCount_le_three c) (Nat.le_of_not_lt hshort), commandFrame, hlength, List.append_assoc,
        List.take_append_drop]
      rfl

/-- Settles O47: every command is one of the table with its arguments. -/
theorem commandFramesDecodeBack : Obligations.CommandFramesDecodeBack := by
  intro i rest hfamily
  obtain ⟨c, a0, a1, a2, rfl⟩ := eq_of_family_command hfamily
  rw [encode_commandWithArgs]
  exact decode_commandFrame c a0 a1 a2 rest

/-- Settles O52: the opcodes are at most 40, the type codes at least 52. -/
theorem opcodesAreNoTypeCodes : Obligations.OpcodesAreNoTypeCodes := by
  intro c e hsame
  have hopcode := exists_opcode_eq_iff.mp ⟨c, rfl⟩
  have htype : 52 ≤ (typeCode e).toNat := by cases e <;> decide
  rw [← hsame] at htype
  omega

/-! ## Received bytes (40_decoder_framing.md R110) -/

section Bytes

variable {cap : Nat} {st : ParseState} {e r b : Byte} {i : Instr} {bs rest : List Byte}

/-- A byte decodes to the byte-step the step table selects. -/
theorem decode_byte_of_select (h : selectByte cap st e r b = some i) (rest : List Byte) :
    decode (.byte cap st e r) (b :: rest) = .ok (i, rest) := by
  simp only [decode, decodeByte, h]

/-- What a byte that decodes was. -/
theorem decode_byte_eq_ok (h : decode (.byte cap st e r) bs = .ok (i, rest)) :
    ∃ b, bs = b :: rest ∧ selectByte cap st e r b = some i := by
  cases bs with
  | nil => cases h
  | cons b bs =>
    cases hselect : selectByte cap st e r b with
    | none =>
      simp only [decode, decodeByte, hselect] at h
      cases h
    | some j =>
      simp only [decode, decodeByte, hselect] at h
      cases h
      exact ⟨b, rfl, hselect⟩

/-- A selected byte-step encodes to its byte. -/
theorem encode_of_select (h : selectByte cap st e r b = some i) : encode i = [b] := by
  rcases selectByte_cases h with ⟨-, rfl, rfl⟩ | ⟨-, -, rfl⟩ | ⟨-, rfl, rfl⟩ | ⟨-, -, -, rfl⟩ | ⟨-, -, rfl⟩ |
    ⟨-, -, rfl⟩ | ⟨-, -, rfl⟩
  all_goals rfl

/-- A selected byte-step meets the condition of its row. -/
theorem wellFormed_of_select (h : selectByte cap st e r b = some i) : i.wellFormed cap = true := by
  rcases selectByte_cases h with ⟨-, -, rfl⟩ | ⟨-, hb, rfl⟩ | ⟨-, -, rfl⟩ | ⟨-, hpos, hcap, rfl⟩ | ⟨-, hover, rfl⟩ |
    ⟨-, -, rfl⟩ | ⟨-, -, rfl⟩
  case inr.inl => exact decide_eq_true hb
  case inr.inr.inr.inl => simp only [Instr.wellFormed, hpos, hcap, decide_true, Bool.and_self]
  case inr.inr.inr.inr.inl => exact decide_eq_true hover
  all_goals rfl

end Bytes

/-- Settles O48: each byte-step's byte under its row's condition selects it. -/
theorem byteStepsDecodeBack : Obligations.ByteStepsDecodeBack := fun cap b e r rest =>
  ⟨fun hb => decode_byte_of_select (selectByte_idle_skip cap e r hb) rest,
    decode_byte_of_select (selectByte_idle_sync cap e r) rest,
    fun hpos hcap => decode_byte_of_select (selectByte_len_accept e r hpos hcap) rest,
    decode_byte_of_select (selectByte_len_zero cap e r) rest,
    fun hover => decode_byte_of_select (selectByte_len_oversize e r hover) rest,
    fun hmore => decode_byte_of_select (selectByte_pay_store cap b hmore) rest,
    fun hlast => decode_byte_of_select (selectByte_pay_complete cap b hlast) rest⟩

/-! ## All three sources -/

/-- Settles O49: by the source, from what the decoded bytes were. -/
theorem decodedInstructionsEncodeBack : Obligations.DecodedInstructionsEncodeBack := by
  intro src bs i rest h
  cases src with
  | command =>
    obtain ⟨c, a0, a1, a2, rfl, rfl⟩ := decode_command_eq_ok h
    rw [encode_commandWithArgs]
  | frame cap =>
    obtain ⟨p, rfl, rfl, -⟩ := decode_frame_eq_ok h
    rw [encode_selectEvent]
  | byte cap st e r =>
    obtain ⟨b, rfl, hselect⟩ := decode_byte_eq_ok h
    rw [encode_of_select hselect, List.singleton_append]

/-- Settles O50: by the source, from what the decoder answered. -/
theorem decodedInstructionsAreWellFormed : Obligations.DecodedInstructionsAreWellFormed := by
  rintro cap st e r bs i rest (hcommand | hframe | hbyte)
  · obtain ⟨c, a0, a1, a2, rfl, -⟩ := decode_command_eq_ok hcommand
    cases c <;> rfl
  · obtain ⟨p, -, rfl, hp⟩ := decode_frame_eq_ok hframe
    exact wellFormed_selectEvent hp
  · obtain ⟨b, -, hselect⟩ := decode_byte_eq_ok hbyte
    exact wellFormed_of_select hselect

/-- Settles O12: on a byte and on a command by the selection; at a completing byte the frame decodes to the variant that
the payload with the byte stored selects, which is what `PAY-COMPLETE` runs. -/
theorem stepRunsTheDecodedInstruction : Obligations.StepRunsTheDecodedInstruction := by
  refine ⟨fun s b rest i hin h => ?byte, fun s op a0 a1 a2 rest i hin h => ?command,
    fun s b rest i hcompleting h => ?completing⟩
  case byte =>
    obtain ⟨b', hb, hselect⟩ := decode_byte_eq_ok h
    cases hb
    exact step_eq_exec_of_select hin hselect
  case command => exact (step_cmd hin).trans (runCommand_of_select h)
  case completing =>
    obtain ⟨hin, hst, hlast, hroom⟩ := hcompleting
    obtain ⟨p, hframe, rfl, -⟩ := decode_frame_eq_ok h
    have hp : p = (List.range s.dec.expected.toNat).map (frameByte s b) := by
      have htail := congrArg (List.drop 2) hframe
      simpa [payloadFrame] using htail.symm
    rw [step_eq_payComplete hin hst hlast, exec_payComplete (s := taken s rest) b hroom, DecoderState.payload,
      pushByte_bufByte_eq_frameByte, frameByte_taken, hp]
    have hstate : ((taken s rest).pushByte b).enter .idle =
        { taken s rest with
          dec := { st := .idle, expected := s.dec.expected, received := s.dec.received + 1#8,
                   buf := s.dec.buf.write s.dec.received.toNat b } } := rfl
    rw [hstate, add_one_eq_of_toNat hlast]
    rfl

/-! ## Words of the table (R93, log entry 7) -/

section TableWords

variable {nbits w : Nat}

/-- A word of one byte is read as a lone byte. -/
theorem decodeTableWord_of_byte {b : Byte} (hbytes : tableBytes (nbits / 8) w = [b]) :
    decodeTableWord nbits w = some (tableByte b) := by
  simp only [decodeTableWord, hbytes]

/-- A word whose bytes are a command's frame is read as the command. -/
theorem decodeTableWord_of_commandFrame (c : CommandName) (a0 a1 a2 : Byte)
    (hbytes : tableBytes (nbits / 8) w = commandFrame c ([a0, a1, a2].take (argCount c))) :
    decodeTableWord nbits w = some (commandWithArgs c a0 a1 a2) := by
  have hcommand := decode_commandFrame c a0 a1 a2 (List.replicate 3 0#8)
  rw [← hbytes] at hcommand
  unfold decodeTableWord
  split
  · rename_i b hone
    simp [hbytes, commandFrame] at hone
  · rw [hcommand]

/-- A word whose bytes are no command, and are a frame whose length byte is filled in, is read as the variant that the
frame's payload selects. -/
theorem decodeTableWord_of_payloadFrame {e : DecodeError} (p : List Byte) (hp : p.length ≤ Config.defaultCap)
    (hbytes : tableBytes (nbits / 8) w = payloadFrame p) (hclosed : closeOpenLength (payloadFrame p) = payloadFrame p)
    (hcommand : decode .command (payloadFrame p ++ List.replicate 3 0#8) = .error e) :
    decodeTableWord nbits w = some (selectEvent p) := by
  unfold decodeTableWord
  split
  · rename_i b hone
    simp [hbytes, payloadFrame] at hone
  · rw [hbytes, hcommand, hclosed]
    simp only [decode_payloadFrame (by decide) hp]

end TableWords

/-- Settles O53: each word by the frame or the lone byte that its bytes are. -/
theorem tableWordsDecode : Obligations.TableWordsDecode :=
  ⟨decodeTableWord_of_commandFrame .getVersion 0#8 0#8 0#8 rfl,
    decodeTableWord_of_commandFrame .setLed 1#8 0#8 0#8 rfl,
    decodeTableWord_of_commandFrame .setTone 100#8 5#8 2#8 rfl,
    decodeTableWord_of_commandFrame .getSerialNumber 0#8 0#8 0#8 rfl,
    decodeTableWord_of_payloadFrame [52#8, 10#8, 20#8] (by decide) rfl rfl rfl,
    decodeTableWord_of_payloadFrame [83#8, 0x41#8, 0x42#8, 0x43#8] (by decide) rfl rfl rfl,
    decodeTableWord_of_payloadFrame [99#8] (by decide) rfl rfl rfl,
    decodeTableWord_of_payloadFrame [] (by decide) rfl rfl rfl,
    decodeTableWord_of_byte (b := sync) rfl,
    decodeTableWord_of_byte (b := 0#8) rfl⟩

end Sys2Proof.Proofs
end

section
/-!
What a step leaves: the frame of the byte-steps, the capacity, the transmit stream, the output of an earlier step; and
the two cases in which a step stops (log entry 8).
-/
namespace Sys2Proof.Proofs

open Sys2Proof Sys2Proof.Machine Sys2Proof.Claims

/-! ## The frame of the byte-steps -/

/-- What no byte-step changes: the encoder's side, the capacity, the environment's inputs and the draw number. -/
structure SameAround (s t : State) : Prop where
  enc : t.enc = s.enc
  tx : t.tx = s.tx
  cap : t.cap = s.cap
  inputs : t.inputs = s.inputs
  draws : t.draws = s.draws

/-- A byte-step changes the decoder and the output only; the two that store write the buffer byte at the cursor, the
other five none (20_memory.md R51). -/
theorem exec_byteStep_frame {i : Instr} {s t : State} (hfamily : i.family = .byteStep) (h : exec i s = .next t) :
    SameAround s t ∧
      (t.dec.buf = s.dec.buf ∨
        ∃ b, (i = .payStore b ∨ i = .payComplete b) ∧ t.dec.buf = s.dec.buf.write s.dec.received.toNat b) := by
  cases i with
  | idleSkip b | idleSync | lenAccept b | lenZero | lenOversize b =>
    cases h
    exact ⟨⟨rfl, rfl, rfl, rfl, rfl⟩, .inl rfl⟩
  | payStore b =>
    obtain ⟨-, rfl⟩ := exec_payStore_eq_next h
    exact ⟨⟨rfl, rfl, rfl, rfl, rfl⟩, .inr ⟨b, .inl rfl, rfl⟩⟩
  | payComplete b =>
    obtain ⟨-, e, rfl⟩ := exec_payComplete_eq_next h
    exact ⟨⟨rfl, rfl, rfl, rfl, rfl⟩, .inr ⟨b, .inr rfl, rfl⟩⟩
  | _ => cases hfamily

/-- Settles O32: the frame of the byte-steps, with the store's one write read back away from the cursor. -/
theorem byteStepsLeaveTheRest : Obligations.ByteStepsLeaveTheRest := by
  intro i s t hfamily hexec
  obtain ⟨hsame, hbuf⟩ := exec_byteStep_frame hfamily hexec
  refine ⟨hsame.enc, hsame.tx, hsame.cap, hsame.inputs, hsame.draws, fun a ha => ?_⟩
  rcases hbuf with hkept | ⟨b, hstores, hwritten⟩
  · rw [hkept]
  · rcases ha with hother | hnoStore
    · rw [hwritten, Memory.read_write_other _ _ hother]
    · obtain ⟨hnotStore, hnotComplete⟩ := hnoStore b
      exact absurd hstores (not_or.mpr ⟨hnotStore, hnotComplete⟩)

/-- The step table selects byte-steps only. -/
theorem selectByte_family {cap : Nat} {st : ParseState} {e r b : Byte} {i : Instr}
    (h : selectByte cap st e r b = some i) : i.family = .byteStep := by
  rcases selectByte_cases h with ⟨-, -, rfl⟩ | ⟨-, -, rfl⟩ | ⟨-, -, rfl⟩ | ⟨-, -, -, rfl⟩ | ⟨-, -, rfl⟩ | ⟨-, -, rfl⟩ |
    ⟨-, -, rfl⟩
  all_goals rfl

/-- A step on a byte changes around the decoder what every step does: the input is taken and the draw number counts. -/
theorem step_rx_frame {s t : State} {b : Byte} {rest : List Input} (hin : s.inputs = .rx b :: rest)
    (h : step s = .next t) : SameAround (taken s rest) t := by
  rw [step_rx hin] at h
  obtain ⟨i, hselect, hexec⟩ := runByte_eq_next h
  obtain ⟨hsame, -⟩ := exec_byteStep_frame (selectByte_family hselect) hexec
  exact hsame

/-! ## The step without an input -/

/-- Settles O3: the state differs from the one before in the output, the inputs and the draw number only. -/
theorem noInputKeepsTheState : Obligations.NoInputKeepsTheState := by
  intro s hin
  have hout : (s.advance []).out = .none := advance_out [] s
  exact ⟨_, step_none hin, advance_dec _ _, advance_enc _ _, advance_tx _ _, advance_cap _ _, advance_inputs _ _,
    eventPort_valid_of_out_none hout, noError_of_out_none hout⟩

/-! ## The transmit stream, the capacity and the earlier output -/

/-- What a step that answers next leaves around the decoder, by its input: a byte's step what every byte-step does, a
command of the table its frame besides, and every other step at most the port's or the decoder's reset value. -/
theorem step_updates {s t : State} (h : step s = .next t) :
    (∃ b rest, s.inputs = .rx b :: rest ∧ SameAround (taken s rest) t) ∨
      (∃ op a0 a1 a2 rest i, s.inputs = .cmd op a0 a1 a2 :: rest ∧ selectCommand op a0 a1 a2 = some i ∧
        t = (s.advance rest).presentFrame (encode i)) ∨
      ∃ rest, t = s.advance rest ∨ t = (s.advance rest).refuseOpcode ∨ t = (s.advance rest).applyReset := by
  match hin : s.inputs with
  | [] =>
    cases (step_none hin).symm.trans h
    exact .inr (.inr ⟨[], .inl rfl⟩)
  | .rx b :: rest => exact .inl ⟨b, rest, rfl, step_rx_frame hin h⟩
  | .cmd op a0 a1 a2 :: rest =>
    rw [step_cmd hin] at h
    rcases runCommand_cases op a0 a1 a2 (s.advance rest) with ⟨i, hselect, hsent⟩ | ⟨-, hrefused⟩
    · cases hsent.symm.trans h
      exact .inr (.inl ⟨op, a0, a1, a2, rest, i, rfl, hselect, rfl⟩)
    · cases hrefused.symm.trans h
      exact .inr (.inr ⟨rest, .inr (.inl rfl)⟩)
  | .reset :: rest =>
    cases (step_reset hin).symm.trans h
    exact .inr (.inr ⟨rest, .inr (.inr rfl)⟩)

/-- Settles O29: only a command that the port does not refuse sends, and it sends its encoding. -/
theorem transmitStreamGrowsByWholeFrames : Obligations.TransmitStreamGrowsByWholeFrames := by
  intro s t hstep
  rcases step_updates hstep with ⟨b, rest, -, hsame⟩ | ⟨op, a0, a1, a2, rest, i, hin, hselect, rfl⟩ |
    ⟨rest, rfl | rfl | rfl⟩
  · exact .inl hsame.tx
  · obtain ⟨-, -, -, hfamily⟩ := selectCommand_some hselect
    exact .inr ⟨op, a0, a1, a2, rest, i, hin, hselect, hfamily, rfl⟩
  all_goals exact .inl rfl

/-- Settles O35: no update that a step makes writes the capacity. -/
theorem capacityIsNeverWritten : Obligations.CapacityIsNeverWritten := by
  intro s t hstep
  rcases step_updates hstep with ⟨b, rest, -, hsame⟩ | ⟨op, a0, a1, a2, rest, i, -, -, rfl⟩ | ⟨rest, rfl | rfl | rfl⟩
  · exact hsame.cap
  all_goals rfl

/-- A step depends on its inputs and on the state that `advance` leaves. -/
theorem step_eq_of_advance_eq {s t : State} (hinputs : t.inputs = s.inputs)
    (hadvance : ∀ rest, t.advance rest = s.advance rest) : step t = step s := by
  match hin : s.inputs with
  | [] => rw [step_none hin, step_none (hinputs.trans hin), hadvance]
  | .rx b :: rest => rw [step_rx hin, step_rx (hinputs.trans hin), hadvance]
  | .cmd op a0 a1 a2 :: rest => rw [step_cmd hin, step_cmd (hinputs.trans hin), hadvance]
  | .reset :: rest => rw [step_reset hin, step_reset (hinputs.trans hin), hadvance]

/-- Settles O34: `advance` drops the earlier output. -/
theorem noStepReadsAnEarlierOutput : Obligations.NoStepReadsAnEarlierOutput :=
  fun _ _ => step_eq_of_advance_eq rfl fun _ => rfl

/-! ## The two faults (log entry 8) -/

/-- The step table has no row for a cursor at or past the target length (40_decoder_framing.md R110). -/
theorem selectByte_eq_none {cap : Nat} {e r : Byte} (b : Byte) (h : e.toNat < r.toNat + 1) :
    selectByte cap .awaitPayload e r b = none := by
  simp [selectByte, moreToCome, completes, Nat.not_lt.mpr (Nat.le_of_lt h), Nat.ne_of_gt h]

/-- The store of a payload byte at or past the capacity faults (20_memory.md R50). -/
theorem storePayloadByte_of_ge {s : State} (b : Byte) (h : s.cap ≤ s.dec.received.toNat) :
    storePayloadByte b s = .fault .bufferBound := by
  simp [storePayloadByte, h]

/-- Both storing byte-steps fault with their store. -/
theorem exec_store_of_ge {s : State} (b : Byte) (h : s.cap ≤ s.dec.received.toNat) :
    exec (.payStore b) s = .fault .bufferBound ∧ exec (.payComplete b) s = .fault .bufferBound := by
  simp only [exec, execPayStore, execPayComplete, storePayloadByte_of_ge b h, onNext, and_self]

/-- Settles O13: no row for the one, and for the other the row of `PAY-STORE` or `PAY-COMPLETE`, whose store faults. -/
theorem stepsFaultOnAByteOffTheTableOrPastTheBuffer : Obligations.StepsFaultOnAByteOffTheTableOrPastTheBuffer := by
  refine ⟨fun s b rest hin hst hpast => ?offTheTable, fun s b rest hin hst hle hfull => ?pastTheBuffer⟩
  case offTheTable => rw [step_rx hin, runByte, advance_cap, advance_dec, hst, selectByte_eq_none b hpast]
  case pastTheBuffer =>
    obtain ⟨hstore, hcomplete⟩ := exec_store_of_ge (s := taken s rest) b hfull
    rcases Nat.lt_or_eq_of_le hle with hmore | hlast
    · exact (step_eq_payStore hin hst hmore).trans hstore
    · exact (step_eq_payComplete hin hst hlast).trans hcomplete

end Sys2Proof.Proofs
end

section
/-!
The invariant of 10_state.md R25 with the buffer's form and bound (20_memory.md R52): it holds at reset, every update
that a step makes keeps it, and no state that has it stops.
-/
namespace Sys2Proof.Proofs

open Sys2Proof Sys2Proof.Machine Sys2Proof.Claims

/-! ## What the invariant reads -/

/-- The invariant reads the capacity and the decoder only. -/
theorem inv_of_same_decoder {s t : State} (h : s.Inv) (hcap : t.cap = s.cap) (hdec : t.dec = s.dec) : t.Inv := by
  obtain ⟨hlegal, hcursor, hform, hbound, hstored⟩ := h
  refine ⟨?_, ?_, ?_, ?_, ?_⟩ <;> simp only [hcap, hdec] <;> assumption

/-- A reset decoder has the invariant at every legal capacity. -/
theorem inv_of_reset {s : State} (hcap : legalCap s.cap) (hdec : s.dec = DecoderState.reset) : s.Inv where
  cap := hcap
  cursor := by
    rw [hdec]
    exact ⟨Nat.le_refl _, Nat.zero_le _, fun hst => by cases hst⟩
  form := by rw [hdec]; rfl
  bound := by rw [hdec]; rfl
  stored := by
    rw [hdec]
    exact fun hst => by cases hst

/-- Settles O36: the decoder there is the reset one. -/
theorem invariantHoldsAtReset : Obligations.InvariantHoldsAtReset :=
  fun cap hcap => inv_of_reset (s := State.resetWith cap) hcap (resetWith_dec cap)

/-! ## The updates of the byte-steps keep it -/

section Updates

variable {s : State} {p : ParseState}

/-- Entering `Idle` or `AwaitLength`. -/
theorem inv_enter (h : s.Inv) (hp : p ≠ .awaitPayload) : (s.enter p).Inv := by
  obtain ⟨hlegal, ⟨hreceived, hexpected, -⟩, hform, hbound, -⟩ := h
  exact ⟨hlegal, ⟨hreceived, hexpected, fun hst => absurd hst hp⟩, hform, hbound, fun hst => absurd hst hp⟩

/-- Loading a length of at most `CAP`, which is positive where the payload is then awaited. -/
theorem inv_enter_loadLength {b : Byte} (h : s.Inv) (hcap : b.toNat ≤ s.cap)
    (hpos : p = .awaitPayload → 1 ≤ b.toNat) : ((s.loadLength b).enter p).Inv := by
  obtain ⟨hlegal, -, hform, hbound, -⟩ := h
  refine ⟨hlegal, ⟨Nat.zero_le _, hcap, fun hst => ⟨hpos hst, hpos hst⟩⟩, hform, hbound, fun _ i hi => ?_⟩
  exact absurd hi (Nat.not_lt_zero i)

/-- Storing the awaited byte, where more is awaited only if the cursor stays below the target length. -/
theorem inv_enter_pushByte (b : Byte) (h : s.Inv) (hst : s.dec.st = .awaitPayload)
    (hmore : p = .awaitPayload → s.dec.received.toNat + 1 < s.dec.expected.toNat) :
    ((s.pushByte b).enter p).Inv := by
  have hroom := received_lt_cap_of_inv h hst
  obtain ⟨hlegal, ⟨-, hexpected, hawait⟩, hform, hbound, hstored⟩ := h
  obtain ⟨hpos, hlt⟩ := hawait hst
  have hcursor : (s.dec.received + 1#8).toNat = s.dec.received.toNat + 1 := toNat_add_one_of_lt hlt
  refine ⟨hlegal, ⟨?le, hexpected, fun hp => ⟨hpos, ?lt⟩⟩, Memory.wf_write _ b hform, Memory.within_write b hroom hbound,
    fun _ i hi => ?stored⟩
  case le => exact hcursor.trans_le hlt
  case lt => exact hcursor.trans_lt (hmore hp)
  case stored =>
    rw [enter_dec_buf, pushByte_dec_buf, Memory.read_write]
    rw [enter_dec_received, pushByte_dec_received, hcursor] at hi
    split
    · rfl
    · exact hstored hst i (by omega)

end Updates

/-! ## The steps keep it -/

/-- Every byte-step that the table selects keeps the invariant. -/
theorem inv_of_runByte {s t : State} {b : Byte} (hinv : s.Inv) (h : runByte b s = .next t) : t.Inv := by
  obtain ⟨i, hselect, hexec⟩ := runByte_eq_next h
  have hemit {u : State} (o : Out) (hu : u.Inv) : (u.emit o).Inv := inv_of_same_decoder hu (emit_cap o u) (emit_dec o u)
  rcases selectByte_cases hselect with ⟨-, -, rfl⟩ | ⟨-, -, rfl⟩ | ⟨-, -, rfl⟩ | ⟨-, hpos, hcap, rfl⟩ | ⟨-, -, rfl⟩ |
    ⟨hst, hmore, rfl⟩ | ⟨hst, -, rfl⟩
  · -- IDLE-SYNC
    cases hexec
    exact hemit _ (inv_enter hinv (by decide))
  · -- IDLE-SKIP
    cases hexec
    exact hemit _ (inv_enter hinv (by decide))
  · -- LEN-ZERO
    cases hexec
    exact hemit _ (inv_enter_loadLength hinv (Nat.zero_le _) fun hp => by cases hp)
  · -- LEN-ACCEPT
    cases hexec
    exact hemit _ (inv_enter_loadLength hinv hcap fun _ => hpos)
  · -- LEN-OVERSIZE
    cases hexec
    exact hemit _ (inv_enter hinv (by decide))
  · -- PAY-STORE
    obtain ⟨-, rfl⟩ := exec_payStore_eq_next hexec
    exact hemit _ (inv_enter_pushByte b hinv hst fun _ => hmore)
  · -- PAY-COMPLETE
    obtain ⟨-, e, rfl⟩ := exec_payComplete_eq_next hexec
    exact hemit _ (inv_enter_pushByte b hinv hst fun hp => by cases hp)

/-- Settles O37: a byte has a row, whose byte-step keeps the invariant; no input and a command leave the decoder; reset
gives the reset decoder. -/
theorem everyStepGoesOnAndKeepsTheInvariant : Obligations.EveryStepGoesOnAndKeepsTheInvariant := by
  intro s hinv
  match hin : s.inputs with
  | [] => exact ⟨_, step_none hin, inv_of_same_decoder hinv (advance_cap _ _) (advance_dec _ _)⟩
  | .rx b :: rest =>
    obtain ⟨t, hstep⟩ := step_rx_answers_next_of_inv hinv hin
    have htaken : (s.advance rest).Inv := inv_of_same_decoder hinv (advance_cap _ _) (advance_dec _ _)
    exact ⟨t, hstep, inv_of_runByte htaken ((step_rx hin).symm.trans hstep)⟩
  | .cmd op a0 a1 a2 :: rest =>
    have hnext : ∃ t, step s = .next t := by
      rcases runCommand_cases op a0 a1 a2 (s.advance rest) with ⟨i, -, hsent⟩ | ⟨-, hrefused⟩
      · exact ⟨_, (step_cmd hin).trans hsent⟩
      · exact ⟨_, (step_cmd hin).trans hrefused⟩
    obtain ⟨t, hstep⟩ := hnext
    obtain ⟨hdec, -⟩ := step_cmd_decoder hin hstep
    exact ⟨t, hstep, inv_of_same_decoder hinv (capacityIsNeverWritten s t hstep) hdec⟩
  | .reset :: rest => exact ⟨_, step_reset hin, inv_of_reset hinv.cap (applyReset_dec _)⟩

/-- A run goes on after a step that answers next. -/
theorem run_succ_of_step {M : Host.Core} {s t : M.State} (k : Nat) (h : M.step s = .next t) :
    M.run (k + 1) s = M.run k t := by
  simp only [Host.Core.run, h]

/-- A run from a state with the invariant goes on for any number of steps and keeps it. -/
theorem run_answers_next_of_inv (k : Nat) :
    ∀ s : State, s.Inv → ∃ t : State, Host.Core.run Sys2Proof.core k s = .next t ∧ t.Inv := by
  induction k with
  | zero => exact fun s hinv => ⟨s, rfl, hinv⟩
  | succ k ih =>
    intro s hinv
    obtain ⟨t, hstep, ht⟩ := everyStepGoesOnAndKeepsTheInvariant s hinv
    obtain ⟨u, hrun, hu⟩ := ih t ht
    exact ⟨u, (run_succ_of_step (M := Sys2Proof.core) k hstep).trans hrun, hu⟩

/-- Settles O38: the run starts in a reset decoder, whatever inputs are placed. -/
theorem noRunFromResetEverStops : Obligations.NoRunFromResetEverStops :=
  fun cap inputs k hcap =>
    run_answers_next_of_inv k { State.resetWith cap with inputs := inputs } (inv_of_reset hcap (resetWith_dec cap))

end Sys2Proof.Proofs
end

section
/-!
Feeding (40_decoder_framing.md R118 to R125): chunks, the bytes skipped in `Idle`, the frame that gives its event, the
length that gives `FrameTooLarge`, and encoded commands fed back (42_command_encoder.md R193).
-/
namespace Sys2Proof.Proofs

open Sys2Proof Sys2Proof.Machine Sys2Proof.Claims

/-! ## Chunks (R118, R119) -/

/-- Feeding two chunks one after the other. -/
theorem feed_append {s t u : State} {a b : List Byte} {os os' : List Out} (ha : feed s a = .next (t, os))
    (hb : feed t b = .next (u, os')) : feed s (a ++ b) = .next (u, os ++ os') := by
  induction a generalizing s os with
  | nil =>
    cases ha
    exact hb
  | cons c a ih =>
    obtain ⟨v, os₁, hstep, hrest, rfl⟩ := feed_cons_eq_next ha
    rw [List.cons_append, feed_cons_next hstep (ih hrest), List.append_assoc]

/-- Feeding a chunk that answers next went through the state between any two parts of it. -/
theorem feed_append_eq_next {s u : State} {a b : List Byte} {os : List Out} (h : feed s (a ++ b) = .next (u, os)) :
    ∃ t os₁ os₂, feed s a = .next (t, os₁) ∧ feed t b = .next (u, os₂) ∧ os = os₁ ++ os₂ := by
  induction a generalizing s os with
  | nil => exact ⟨s, [], os, feed_nil s, h, rfl⟩
  | cons c a ih =>
    obtain ⟨v, os', hstep, hrest, rfl⟩ := feed_cons_eq_next h
    obtain ⟨t, os₁, os₂, ha, hb, rfl⟩ := ih hrest
    exact ⟨t, v.out.toList ++ os₁, os₂, feed_cons_next hstep ha, hb, (List.append_assoc _ _ _).symm⟩

/-- Settles O39: both directions by induction on the first chunk. -/
theorem feedingIsChunkInvariant : Obligations.FeedingIsChunkInvariant :=
  fun _ _ _ => ⟨fun _ _ _ _ ha hb => feed_append ha hb, fun _ _ h => feed_append_eq_next h⟩

/-- Feeding one byte. -/
theorem feed_singleton {s t : State} {b : Byte} (h : step (s.present (.rx b)) = .next t) :
    feed s [b] = .next (t, t.out.toList) := by
  rw [feed_cons_next h (feed_nil t), List.append_nil]

/-! ## The number of outputs (R121) -/

/-- Feeding gives at most one output a byte. -/
theorem length_outputs_le {s u : State} {bs : List Byte} {os : List Out} (h : feed s bs = .next (u, os)) :
    os.length ≤ bs.length := by
  induction bs generalizing s os with
  | nil =>
    cases h
    exact Nat.le_refl _
  | cons b bs ih =>
    obtain ⟨t, os', -, hrest, rfl⟩ := feed_cons_eq_next h
    have hfirst := toList_length t.out
    have hothers := ih hrest
    rw [List.length_append, List.length_cons]
    omega

/-- The output of a step is not an event and an error at once, so neither are the ports (10_state.md R42). -/
theorem not_event_and_error (s : State) : ¬(s.eventPort.valid = true ∧ s.errorPort.valid = true) := by
  rintro ⟨hevent, herror⟩
  cases hout : s.out with
  | none => simp [State.eventPort, hout] at hevent
  | err e b => simp [State.eventPort, hout] at hevent
  | ev e n => simp [State.errorPort, hout] at herror

/-- Settles O41: the outputs by induction on the bytes, the ports by the one output of a step. -/
theorem atMostOneOutputPerByte : Obligations.AtMostOneOutputPerByte :=
  ⟨fun _ _ _ _ h => length_outputs_le h, not_event_and_error⟩

/-! ## In `Idle` (R123) -/

/-- Settles O40: each byte's step leaves the decoder and gives no output, so the next byte is received in `Idle` too. -/
theorem idleSkipsAnythingButSync : Obligations.IdleSkipsAnythingButSync := by
  intro s bs hst hsync
  induction bs generalizing s with
  | nil => exact ⟨s, feed_nil s, rfl⟩
  | cons b bs ih =>
    rw [List.mem_cons, not_or] at hsync
    obtain ⟨hb, hbs⟩ := hsync
    obtain ⟨-, hskip⟩ := idleSkipDiscardsTheByte
    obtain ⟨-, hstep⟩ := hskip (s.present (.rx b)) b s.inputs rfl hst (Ne.symm hb)
    obtain ⟨u, hfeed, hdec⟩ := ih (taken (s.present (.rx b)) s.inputs) hst hbs
    exact ⟨u, feed_cons_next hstep hfeed, hdec⟩

/-! ## A length byte after the sync byte (R112, R113, R115) -/

section Frames

variable {s : State}

/-- A sync byte and an accepted length open a payload of that length. -/
theorem feed_accepted_length {n : Byte} (hst : s.dec.st = .idle) (hpos : 1 ≤ n.toNat) (hcap : n.toNat ≤ s.cap) :
    ∃ t, feed s [sync, n] = .next (t, []) ∧ t.cap = s.cap ∧ t.dec.st = .awaitPayload ∧ t.dec.expected = n ∧
      t.dec.received = 0#8 := by
  have hsync := step_eq_idleSync (s := s.present (.rx sync)) rfl hst
  have hlen := step_eq_lenAccept (s := ((((taken (s.present (.rx sync)) s.inputs).enter .awaitLength).emit .none).present
    (.rx n))) rfl rfl hpos hcap
  exact ⟨_, feed_cons_next hsync (feed_singleton hlen), rfl, rfl, rfl, rfl⟩

/-- A sync byte and a length above `CAP` give `FrameTooLarge` and leave the decoder as it was, in `Idle`. -/
theorem feed_oversized_length {n : Byte} (hst : s.dec.st = .idle) (hcap : s.cap < n.toNat) :
    ∃ t, feed s [sync, n] = .next (t, [.err .frameTooLarge n]) ∧ t.cap = s.cap ∧ t.dec = s.dec := by
  have hsync := step_eq_idleSync (s := s.present (.rx sync)) rfl hst
  have hlen := step_eq_raiseFrameTooLarge (s := ((((taken (s.present (.rx sync)) s.inputs).enter .awaitLength).emit
    .none).present (.rx n))) rfl rfl hcap
  refine ⟨_, feed_cons_next hsync (feed_singleton hlen), rfl, ?_⟩
  change { s.dec with st := .idle } = s.dec
  rw [← hst]

/-! ## The bytes of a payload (R116, R117) -/

/-- The payload stored so far grows by the byte stored at the cursor. -/
theorem payload_pushByte (s : State) (b : Byte) :
    (s.pushByte b).dec.payload (s.dec.received.toNat + 1) = s.dec.payload s.dec.received.toNat ++ [b] := by
  have hbelow : ∀ i ∈ List.range s.dec.received.toNat, (s.pushByte b).dec.bufByte i = s.dec.bufByte i := fun i hi => by
    rw [pushByte_bufByte, if_neg (Nat.ne_of_lt (List.mem_range.mp hi))]
  have hcursor : (s.pushByte b).dec.bufByte s.dec.received.toNat = b := by rw [pushByte_bufByte, if_pos rfl]
  rw [DecoderState.payload, List.range_succ, List.map_append, List.map_congr_left hbelow, List.map_singleton, hcursor,
    DecoderState.payload]

/-- Bytes short of the whole payload are stored in order after those stored before, without output. -/
theorem feed_payload_part (p : List Byte) : ∀ s : State, s.dec.st = .awaitPayload → s.dec.expected.toNat ≤ s.cap →
    s.dec.received.toNat + p.length < s.dec.expected.toNat →
    ∃ t, feed s p = .next (t, []) ∧ t.cap = s.cap ∧ t.dec.st = .awaitPayload ∧ t.dec.expected = s.dec.expected ∧
      t.dec.received.toNat = s.dec.received.toNat + p.length ∧
      t.dec.payload t.dec.received.toNat = s.dec.payload s.dec.received.toNat ++ p := by
  induction p with
  | nil => exact fun s hst _ _ => ⟨s, feed_nil s, rfl, hst, rfl, rfl, (List.append_nil _).symm⟩
  | cons b p ih =>
    intro s hst hcap hpart
    rw [List.length_cons] at hpart
    have hstep := step_payStore_eq_next (s := s.present (.rx b)) (rest := s.inputs) rfl hst
      (by rw [present_dec]; omega) (by rw [present_dec, present_cap]; omega)
    have hcursor : (s.dec.received + 1#8).toNat = s.dec.received.toNat + 1 :=
      toNat_add_one_of_lt (e := s.dec.expected) (by omega)
    have hpayload := payload_pushByte s b
    obtain ⟨t, hfeed, htcap, htst, htexpected, htreceived, htpayload⟩ :=
      ih ((((taken (s.present (.rx b)) s.inputs).pushByte b).enter .awaitPayload).emit .none) rfl hcap
        (by change (s.dec.received + 1#8).toNat + _ < s.dec.expected.toNat; omega)
    refine ⟨t, feed_cons_next hstep hfeed, htcap, htst, htexpected, ?received, ?payload⟩
    case received =>
      rw [htreceived, List.length_cons]
      change (s.dec.received + 1#8).toNat + _ = _
      omega
    case payload =>
      rw [htpayload]
      change (s.pushByte b).dec.payload (s.dec.received + 1#8).toNat ++ p = _
      rw [hcursor, hpayload, List.append_assoc, List.singleton_append]

/-- `decode_event` reads the payload only (41_event_dispatch.md R140). -/
theorem decodeEvent_congr {n : Nat} {buf buf' : Nat → Byte} (h : (List.range n).map buf = (List.range n).map buf')
    (draw : Nat) : decodeEvent draw n buf = decodeEvent draw n buf' := by
  have hbuf := exec_selectEvent_eq_decodeEvent { State.reset with draws := draw } n buf
  rw [h, exec_selectEvent_eq_decodeEvent] at hbuf
  have hout := congrArg State.out (Host.Outcome.next.inj hbuf)
  rw [emit_out, emit_out] at hout
  exact (Out.ev.inj hout).1.symm

/-- The last byte of a payload gives the event of the whole payload and ends in `Idle`. -/
theorem feed_payload_last (b : Byte) (hst : s.dec.st = .awaitPayload) (hcap : s.dec.expected.toNat ≤ s.cap)
    (hlast : s.dec.received.toNat + 1 = s.dec.expected.toNat) :
    ∃ u, feed s [b] =
        .next (u, [.ev (decodeEvent u.draws s.dec.expected.toNat u.dec.bufByte) s.dec.expected.toNat]) ∧
      u.dec.st = .idle ∧ u.dec.expected = s.dec.expected ∧ u.dec.received = s.dec.expected ∧
      u.dec.payload s.dec.expected.toNat = s.dec.payload s.dec.received.toNat ++ [b] := by
  have hcompleting : Completing (s.present (.rx b)) b s.inputs :=
    ⟨rfl, hst, hlast, (Nat.lt_of_succ_le hlast.le).trans_le hcap⟩
  refine ⟨completed (s.present (.rx b)) b s.inputs, ?feed, completed_st, completed_expected,
    completed_received hcompleting, ?payload⟩
  case feed =>
    rw [feed_singleton (step_eq_completed hcompleting), completed_out, completed_bufByte]
    rfl
  case payload =>
    rw [← payload_pushByte s b, hlast]
    rfl

/-- A whole payload gives, at its last byte and not before, the event of its bytes. -/
theorem feed_payload {p : List Byte} (hst : s.dec.st = .awaitPayload) (hcap : s.dec.expected.toNat ≤ s.cap)
    (hpos : 1 ≤ s.dec.expected.toNat) (hreceived : s.dec.received = 0#8) (hlength : p.length = s.dec.expected.toNat) :
    (∃ u, feed s p = .next (u, [.ev (decodeEvent u.draws s.dec.expected.toNat fun i => p.getD i 0#8)
        s.dec.expected.toNat]) ∧
      u.dec.st = .idle ∧ u.dec.expected = s.dec.expected ∧ u.dec.received = s.dec.expected ∧
      u.dec.payload s.dec.expected.toNat = p) ∧
    ∃ v, feed s p.dropLast = .next (v, []) := by
  obtain ⟨last, hp⟩ : ∃ last, p = p.dropLast ++ [last] :=
    ⟨_, (List.dropLast_append_getLast (List.ne_nil_of_length_pos (by omega))).symm⟩
  have hstart : s.dec.received.toNat = 0 := by rw [hreceived, BitVec.toNat_zero]
  have hshort : p.dropLast.length + 1 = s.dec.expected.toNat := by
    rw [List.length_dropLast]
    omega
  obtain ⟨v, hpart, hvcap, hvst, hvexpected, hvreceived, hvpayload⟩ :=
    feed_payload_part p.dropLast s hst hcap (by omega)
  obtain ⟨u, hlast, hust, huexpected, hureceived, hupayload⟩ :=
    feed_payload_last last hvst (by rw [hvexpected, hvcap]; exact hcap) (by rw [hvexpected]; omega)
  rw [hvexpected] at hlast huexpected hureceived hupayload
  rw [hvpayload, hreceived] at hupayload
  replace hupayload : u.dec.payload s.dec.expected.toNat = p := hupayload.trans hp.symm
  refine ⟨⟨u, ?_, hust, huexpected, hureceived, hupayload⟩, v, hpart⟩
  have hwhole := feed_append hpart hlast
  have hevent : (List.range s.dec.expected.toNat).map u.dec.bufByte =
      (List.range s.dec.expected.toNat).map fun i => p.getD i 0#8 := by
    rw [← hlength, map_getD_range_length, hlength]
    exact hupayload
  rw [← hp, decodeEvent_congr hevent] at hwhole
  exact hwhole

end Frames

/-- Settles O42: the header opens the payload, whose bytes give the event of the payload fed. -/
theorem wellFormedFrameGivesItsEvent : Obligations.WellFormedFrameGivesItsEvent := by
  intro s n p hst hpos hcap hlength
  obtain ⟨t, hheader, htcap, htst, rfl, htreceived⟩ := feed_accepted_length hst hpos hcap
  obtain ⟨⟨u, hwhole, hends⟩, v, hpart⟩ := feed_payload htst (htcap ▸ hcap) hpos htreceived hlength
  exact ⟨⟨u, feed_append hheader hwhole, hends⟩, v, feed_append hheader hpart⟩

/-! ## Repeated sync bytes (60_exceptions.md R206, 70_reset_and_hazards.md R239) -/

/-- Settles O44: each pair is a sync byte and the oversized length 255, after which the decoder is as before. -/
theorem repeatedSyncBytesPairUp : Obligations.RepeatedSyncBytesPairUp := by
  intro s k hst hcap
  induction k generalizing s with
  | zero => exact ⟨s, feed_nil s, rfl⟩
  | succ k ih =>
    obtain ⟨t, hpair, htcap, htdec⟩ := feed_oversized_length (n := sync) hst hcap
    obtain ⟨u, hrest, hudec⟩ := ih t (htdec ▸ hst) (htcap ▸ hcap)
    refine ⟨u, ?_, hudec.trans htdec⟩
    have hsplit : List.replicate (2 * (k + 1)) sync = [sync, sync] ++ List.replicate (2 * k) sync := rfl
    exact hsplit ▸ feed_append hpair hrest

/-! ## Encoded commands fed back (42_command_encoder.md R193) -/

/-- The event of a command's frame as an incoming payload. -/
theorem decodeEvent_of_opcode (c : CommandName) (args : List Byte) (draw : Nat) :
    decodeEvent draw (args.length + 1) (fun i => (opcode c :: args).getD i 0#8) =
      .unhandled (opcode c) (opcode c :: args) := by
  have huntyped : opcode c ∉ typedCodes := by
    rw [mem_typedCodes_iff]
    exact fun ⟨e, he⟩ => opcodesAreNoTypeCodes c e he.symm
  rw [decodeEvent_of_untyped (Nat.succ_ne_zero _) huntyped]
  exact congrArg _ (map_getD_range_length (opcode c :: args))

/-- Feeding from a state with the invariant never stops. -/
theorem feed_answers_next_of_inv (bs : List Byte) : ∀ s : State, s.Inv → ∃ u os, feed s bs = .next (u, os) := by
  induction bs with
  | nil => exact fun s _ => ⟨s, [], feed_nil s⟩
  | cons b bs ih =>
    intro s hinv
    obtain ⟨t, hstep, ht⟩ := everyStepGoesOnAndKeepsTheInvariant (s.present (.rx b))
      (inv_of_same_decoder hinv (present_cap _ _) (present_dec _ _))
    obtain ⟨u, os, hfeed⟩ := ih t ht
    exact ⟨u, _, feed_cons_next hstep hfeed⟩

/-- A frame with an oversized length gives `FrameTooLarge` first, whatever its payload bytes then give. -/
theorem feed_oversized_frame {s : State} {n : Byte} (hinv : s.Inv) (hst : s.dec.st = .idle) (hcap : s.cap < n.toNat)
    (p : List Byte) : ∃ u os, feed s ([sync, n] ++ p) = .next (u, .err .frameTooLarge n :: os) := by
  obtain ⟨t, hheader, htcap, htdec⟩ := feed_oversized_length hst hcap
  obtain ⟨u, os, hrest⟩ := feed_answers_next_of_inv p t (inv_of_same_decoder hinv htcap htdec)
  exact ⟨u, os, feed_append hheader hrest⟩

/-- Settles O43: the command's frame is a well-formed incoming frame whose first payload byte, the opcode, is no type
code; below its length the length byte is oversized. -/
theorem encodedCommandsComeBackUnhandled : Obligations.EncodedCommandsComeBackUnhandled := by
  refine ⟨fun s c a0 a1 a2 hst hcap => ?unhandled, fun s a0 a1 a2 hinv hst hcap => ?setTone,
    fun s a0 a1 hinv hst hcap => ?setLed⟩
  case unhandled =>
    have hargs : ([a0, a1, a2].take (argCount c)).length = argCount c := List.length_take_of_le (argCount_le_three c)
    have hthree := argCount_le_three c
    have hlen : (BitVec.ofNat 8 (argCount c + 1)).toNat = argCount c + 1 := Nat.mod_eq_of_lt (by omega)
    obtain ⟨⟨u, hfeed, hust, -⟩, -⟩ := wellFormedFrameGivesItsEvent s (BitVec.ofNat 8 (argCount c + 1))
      (opcode c :: [a0, a1, a2].take (argCount c)) hst (by omega) (by omega) (by rw [List.length_cons, hargs, hlen])
    have hevent := decodeEvent_of_opcode c ([a0, a1, a2].take (argCount c)) u.draws
    rw [hargs] at hevent
    rw [hlen, hevent] at hfeed
    rw [encode_commandWithArgs]
    exact ⟨u, hfeed, hust⟩
  case setTone => exact feed_oversized_frame (n := 4#8) hinv hst hcap [opcode .setTone, a0, a1, a2]
  case setLed => exact feed_oversized_frame (n := 3#8) hinv hst hcap [opcode .setLed, a0, a1]

end Sys2Proof.Proofs
end

section
/-!
Stale registers and stale bytes (10_state.md R24, R35, 20_memory.md R69): two decoders that differ in nothing else give
the same outputs.
-/
namespace Sys2Proof.Proofs

open Sys2Proof Sys2Proof.Machine Sys2Proof.Claims

/-- Two machines whose outputs on any bytes are to agree: both have the invariant, and they differ in stale registers
and stale bytes at most. -/
structure Related (s r : State) : Prop where
  left : s.Inv
  right : r.Inv
  cap : s.cap = r.cap
  draws : s.draws = r.draws
  alike : s.dec.alike r.dec

/-- Outside a payload the parse state alone makes two decoders alike. -/
theorem alike_of_st_eq {d e : DecoderState} {p : ParseState} (hd : d.st = p) (he : e.st = p) (hp : p ≠ .awaitPayload) :
    d.alike e :=
  ⟨hd.trans he.symm, fun hst => absurd (hd.symm.trans hst) hp⟩

section OneByte

variable {s r t v : State} {b : Byte} {rest rest' : List Input}

/-- The buffer bytes up to the cursor agree after the same byte is stored there. -/
theorem frameByte_eq_of_alike (h : s.dec.alike r.dec) (hst : s.dec.st = .awaitPayload) {i : Nat}
    (hi : i < s.dec.received.toNat + 1) : frameByte s b i = frameByte r b i := by
  obtain ⟨-, hpayload⟩ := h
  obtain ⟨-, hreceived, hstored⟩ := hpayload hst
  rw [frameByte, frameByte, hreceived]
  split
  · rfl
  · rename_i hne
    exact hstored i (by rw [hreceived] at hi ⊢; omega)

/-- Received by two decoders in `Idle`, a byte runs the same row in both, with no output. -/
theorem alike_step_idle (hs : s.inputs = .rx b :: rest) (hr : r.inputs = .rx b :: rest') (hst : s.dec.st = .idle)
    (hrst : r.dec.st = .idle) (ht : step s = .next t) (hv : step r = .next v) :
    t.out = v.out ∧ t.dec.alike v.dec := by
  by_cases hb : b = sync
  · subst hb
    cases (step_eq_idleSync hs hst).symm.trans ht
    cases (step_eq_idleSync hr hrst).symm.trans hv
    exact ⟨rfl, alike_of_st_eq (p := .awaitLength) rfl rfl (by decide)⟩
  · cases (step_eq_idleSkip hs hst hb).symm.trans ht
    cases (step_eq_idleSkip hr hrst hb).symm.trans hv
    exact ⟨rfl, alike_of_st_eq (p := .idle) rfl rfl (by decide)⟩

/-- Received by two decoders of one capacity in `AwaitLength`, a byte runs the same row in both and shows no register;
an accepted length leaves no byte stored in either. -/
theorem alike_step_awaitLength (hcap : s.cap = r.cap) (hs : s.inputs = .rx b :: rest) (hr : r.inputs = .rx b :: rest')
    (hst : s.dec.st = .awaitLength) (hrst : r.dec.st = .awaitLength) (ht : step s = .next t) (hv : step r = .next v) :
    t.out = v.out ∧ t.dec.alike v.dec := by
  by_cases hzero : b = 0#8
  · subst hzero
    cases (step_eq_lenZero hs hst).symm.trans ht
    cases (step_eq_lenZero hr hrst).symm.trans hv
    exact ⟨rfl, alike_of_st_eq (p := .idle) rfl rfl (by decide)⟩
  · have hpos := toNat_pos_of_ne_zero hzero
    rcases Nat.lt_or_ge s.cap b.toNat with hover | hfits
    · cases (step_eq_lenOversize hs hst hover).symm.trans ht
      cases (step_eq_lenOversize hr hrst (hcap ▸ hover)).symm.trans hv
      exact ⟨rfl, alike_of_st_eq (p := .idle) rfl rfl (by decide)⟩
    · cases (step_eq_lenAccept hs hst hpos hfits).symm.trans ht
      cases (step_eq_lenAccept hr hrst hpos (hcap ▸ hfits)).symm.trans hv
      exact ⟨rfl, rfl, fun _ => ⟨rfl, rfl, fun i hi => absurd hi (Nat.not_lt_zero i)⟩⟩

/-- Received by two related decoders inside a payload, a byte is stored at the same cursor in both; the bytes up to it
agree, and the event of the whole payload is made of no others. -/
theorem alike_step_awaitPayload (h : Related s r) (hs : s.inputs = .rx b :: rest) (hr : r.inputs = .rx b :: rest')
    (hst : s.dec.st = .awaitPayload) (hrst : r.dec.st = .awaitPayload) (ht : step s = .next t)
    (hv : step r = .next v) : t.out = v.out ∧ t.dec.alike v.dec := by
  obtain ⟨-, hpayload⟩ := h.alike
  obtain ⟨hexpected, hreceived, -⟩ := hpayload hst
  have hroom := received_lt_cap_of_inv h.left hst
  have hroom' := received_lt_cap_of_inv h.right hrst
  obtain ⟨-, -, hawait⟩ := h.left.cursor
  obtain ⟨-, hlt⟩ := hawait hst
  have hframe {i : Nat} (hi : i < s.dec.received.toNat + 1) := frameByte_eq_of_alike (b := b) h.alike hst hi
  rcases Nat.lt_or_eq_of_le hlt with hmore | hlast
  · cases (step_payStore_eq_next hs hst hmore hroom).symm.trans ht
    cases (step_payStore_eq_next hr hrst (hexpected ▸ hreceived ▸ hmore) hroom').symm.trans hv
    refine ⟨rfl, rfl, fun _ => ⟨hexpected, congrArg (· + 1#8) hreceived, fun i hi => ?_⟩⟩
    simp only [emit_enter_bufByte, pushByte_bufByte_eq_frameByte, frameByte_taken]
    exact hframe (hi.trans_eq (toNat_add_one_of_lt hlt))
  · cases (step_payComplete_eq_next hs hst hlast hroom).symm.trans ht
    cases (step_payComplete_eq_next hr hrst (hexpected ▸ hreceived ▸ hlast) hroom').symm.trans hv
    have hpayloads : (List.range s.dec.expected.toNat).map (frameByte s b) =
        (List.range s.dec.expected.toNat).map (frameByte r b) :=
      List.map_congr_left fun i hi => hframe ((List.mem_range.mp hi).trans_eq hlast.symm)
    refine ⟨?_, alike_of_st_eq (p := .idle) rfl rfl (by decide)⟩
    rw [emit_out, emit_out, ← hexpected, ← h.draws, decodeEvent_congr hpayloads]

/-- A byte received by two related machines gives the same output in both and leaves their decoders alike. -/
theorem alike_step (h : Related s r) (hs : s.inputs = .rx b :: rest) (hr : r.inputs = .rx b :: rest')
    (ht : step s = .next t) (hv : step r = .next v) : t.out = v.out ∧ t.dec.alike v.dec := by
  obtain ⟨hsame, -⟩ := h.alike
  cases hst : s.dec.st with
  | idle => exact alike_step_idle hs hr hst (hsame.symm.trans hst) ht hv
  | awaitLength => exact alike_step_awaitLength h.cap hs hr hst (hsame.symm.trans hst) ht hv
  | awaitPayload => exact alike_step_awaitPayload h hs hr hst (hsame.symm.trans hst) ht hv

/-- Related machines answer the same byte with the same output and stay related. -/
theorem related_step (h : Related s r) (b : Byte) :
    ∃ t v, step (s.present (.rx b)) = .next t ∧ step (r.present (.rx b)) = .next v ∧ t.out = v.out ∧ Related t v := by
  have hs : (s.present (.rx b)).Inv := inv_of_same_decoder h.left (present_cap _ _) (present_dec _ _)
  have hr : (r.present (.rx b)).Inv := inv_of_same_decoder h.right (present_cap _ _) (present_dec _ _)
  have hpresented : Related (s.present (.rx b)) (r.present (.rx b)) := ⟨hs, hr, h.cap, h.draws, h.alike⟩
  obtain ⟨t, ht, htinv⟩ := everyStepGoesOnAndKeepsTheInvariant _ hs
  obtain ⟨v, hv, hvinv⟩ := everyStepGoesOnAndKeepsTheInvariant _ hr
  obtain ⟨hout, halike⟩ := alike_step hpresented rfl rfl ht hv
  have htframe := step_rx_frame rfl ht
  have hvframe := step_rx_frame rfl hv
  refine ⟨t, v, ht, hv, hout, htinv, hvinv, ?cap, ?draws, halike⟩
  case cap => exact htframe.cap.trans (h.cap.trans hvframe.cap.symm)
  case draws => exact htframe.draws.trans ((congrArg (· + 1) h.draws).trans hvframe.draws.symm)

end OneByte

/-- Related machines give the same outputs on the same bytes and end alike. -/
theorem related_feed (bs : List Byte) : ∀ s r : State, Related s r →
    ∃ u v os, feed s bs = .next (u, os) ∧ feed r bs = .next (v, os) ∧ u.dec.alike v.dec := by
  induction bs with
  | nil => exact fun s r h => ⟨s, r, [], feed_nil s, feed_nil r, h.alike⟩
  | cons b bs ih =>
    intro s r h
    obtain ⟨t, v, ht, hv, hout, hnext⟩ := related_step h b
    obtain ⟨u, w, os, hu, hw, hends⟩ := ih t v hnext
    exact ⟨u, w, t.out.toList ++ os, feed_cons_next ht hu, hout ▸ feed_cons_next hv hw, hends⟩

/-- Settles O45: the relation is kept byte by byte, with the same output each time. -/
theorem staleBytesNeverShow : Obligations.StaleBytesNeverShow :=
  fun s r bs hs hr hcap hdraws halike => related_feed bs s r ⟨hs, hr, hcap, hdraws, halike⟩

end Sys2Proof.Proofs
end

section
/-!
The event variants whose payloads hold all their arguments (41_event_dispatch.md R141 to R154), and the event port, the
error port and the codes of the parse states (10_state.md R21, R37, R38).
-/
namespace Sys2Proof.Proofs

open Sys2Proof Sys2Proof.Machine Sys2Proof.Claims

/-! ## Arguments that are present (30_encoding.md R85, 41_event_dispatch.md R156) -/

/-- The first argument is the byte after the type code, whatever follows it. -/
theorem firstArg_cons (s : State) (x : Byte) (more : List Byte) : firstArg s (x :: more) = x := rfl

/-- The second argument is the next byte, whatever follows it. -/
theorem secondArg_cons_cons (s : State) (x y : Byte) (more : List Byte) : secondArg s (x :: y :: more) = y := rfl

/-- Settles O16: the two arguments are the bytes present, and each meaning emits its event of them. -/
theorem twoArgumentEventsReadOffsetsOneAndTwo : Obligations.TwoArgumentEventsReadOffsetsOneAndTwo := by
  intro s x y more
  simp only [exec, execMembranePress, execMembraneRelease, execSwitch, execSensorChange, execVersion,
    execCorrectMembrane, execCorrectSwitch, firstArg_cons, secondArg_cons_cons]
  exact ⟨rfl, rfl, rfl, rfl, rfl, rfl, rfl⟩

/-- Settles O18: `OnOffSwitch` reads the first byte, the other three none. -/
theorem oneAndNoArgumentEventsIgnoreFurtherBytes : Obligations.OneAndNoArgumentEventsIgnoreFurtherBytes := by
  intro s x more
  simp only [exec, execOnOffSwitch, execCorrectDone, execConnect, execDisconnect, firstArg_cons]
  exact ⟨rfl, rfl, rfl, rfl⟩

/-- Settles O19: each of the three meanings is its record equation. -/
theorem stringRawAndEmptyEvents : Obligations.StringRawAndEmptyEvents :=
  ⟨fun _ _ => rfl, fun _ _ _ => rfl, fun _ => rfl⟩

/-! ## The codes of the parse states (10_state.md R21) -/

/-- Reading the code of a parse state gives it back. -/
theorem stOfCode_stCode (p : ParseState) : stOfCode (stCode p) = p := by
  cases p <;> rfl

/-- Settles O55: the table of three codes, pattern 3, and the codes read back. -/
theorem parseStatesHaveTheirCodes : Obligations.ParseStatesHaveTheirCodes :=
  ⟨rfl, rfl, rfl, rfl, stOfCode_stCode⟩

/-! ## The event port (10_state.md R37) -/

/-- `ev_payload` has `CAP` bytes. -/
theorem portPayload_length (s : State) (n : Nat) : (s.portPayload n).length = s.cap := by
  simp [State.portPayload]

/-- A port byte below the event's length is the buffer's. -/
theorem portByte_of_lt {n i : Nat} (s : State) (hi : i < n) : s.portByte n i = s.dec.bufByte i := by
  rw [portByte_eq_atOffset, atOffset_of_lt hi]

/-- An output that is no event shows no event. -/
theorem eventPort_valid_of_out_ne_ev {s : State} (h : ∀ e n, s.out ≠ .ev e n) : s.eventPort.valid = false := by
  cases hout : s.out with
  | none => exact eventPort_valid_of_out_none hout
  | ev e n => exact absurd hout (h e n)
  | err e b => simp [State.eventPort, hout]

/-- Settles O56: the signals of an event by the lemmas about them, read below the event's length. -/
theorem eventPortShowsTheEvent : Obligations.EventPortShowsTheEvent := by
  refine fun s => ⟨fun e n hout hcap hbyte => ?event, eventPort_valid_of_out_ne_ev⟩
  obtain ⟨hvalid, hkind, hlen⟩ := eventPort_of_out_ev hout
  obtain ⟨htype, harg0, harg1, hpayload⟩ := eventPort_bytes_of_out_ev hout
  refine ⟨hvalid, hkind, ?len, fun hn => ?type, fun hn => ?arg0, fun hn => ?arg1, ?length, fun i hi => ?payload⟩
  case len => rw [hlen, toNat_ofNat_of_le hbyte]
  case type => rw [htype, portByte_of_lt s hn]
  case arg0 => rw [harg0, portByte_of_lt s hn]
  case arg1 => rw [harg1, portByte_of_lt s hn]
  case length => rw [hpayload, portPayload_length]
  case payload => rw [hpayload, portPayload_getElem? hi hcap]

/-! ## The error port (10_state.md R38) -/

/-- An output that is not the one error shows no error. -/
theorem noError_of_out_ne_err {s : State} (h : ∀ b, s.out ≠ .err .frameTooLarge b) : noError s := by
  cases hout : s.out with
  | none => exact noError_of_out_none hout
  | ev e n => exact noError_of_out_ev hout
  | err e b =>
    cases e
    exact absurd hout (h b)

/-- The error port shows the code 0 or 1. -/
theorem errorPort_code_cases (s : State) : s.errorPort.code = 0#2 ∨ s.errorPort.code = 1#2 := by
  by_cases herror : ∃ b, s.out = .err .frameTooLarge b
  · obtain ⟨b, hout⟩ := herror
    obtain ⟨-, hcode, -⟩ := errorPort_of_out_err hout
    exact .inr hcode
  · obtain ⟨-, hcode⟩ := noError_of_out_ne_err (not_exists.mp herror)
    exact .inl hcode

/-- Settles O57: the error's signals, no error otherwise, and so no code but 0 and 1. -/
theorem errorPortShowsTheError : Obligations.ErrorPortShowsTheError := by
  refine fun s => ⟨fun b hout => errorPort_of_out_err hout, noError_of_out_ne_err, ?two, ?three⟩
  all_goals rcases errorPort_code_cases s with hcode | hcode <;> rw [hcode] <;> decide

end Sys2Proof.Proofs
end
